-- ==== Sys2Proof/Word.lean ====
section
/-! DEFINITION. The words the engine handles: an identifier byte and the message words of the six
formats of spec/30_encoding.md rule R70, each of one fixed width (R80). All quantities are unsigned
(spec/00_scope.md R7). -/

namespace Sys2Proof

/-- A byte is 8 bits, bit 0 the least significant (R7). -/
abbrev Byte := BitVec 8

/-- Format `HC`, the host command word, 67 bits (R71). -/
abbrev HcWord := BitVec 67

/-- Format `TR`, the transport request word, 11 bits (R72). -/
abbrev TrWord := BitVec 11

/-- Format `TS`, the transport response word, 8 bits, also each beat (R73). -/
abbrev TsWord := BitVec 8

/-- Format `RP`, the report word, 66 bits (R74). -/
abbrev RpWord := BitVec 66

/-- Format `CP`, the completion code as it is returned to the host, 3 bits (R75). -/
abbrev CpWord := BitVec 3

/-- The identifier buffer: 8 registers of 8 bits (spec/10_state.md R21). The register file and the
engine's one address space are the same storage (spec/20_memory.md R50), so it is stored once. -/
abbrev IdBuf := Vector Byte 8

end Sys2Proof
end

