-- ==== Sys2Proof/Config.lean ====
section
/-! DEFINITION. The implementation parameters of spec/00_scope.md rule R6, under their own names, and
the two open parameters of the spec as constants without a body. -/

namespace Sys2Proof.Config

/-- `ID_BYTES`: bytes in the identifier (R6). -/
def idBytes : Nat := 8

/-- `BITS_PER_BYTE`: bits sent per payload byte (R6). -/
def bitsPerByte : Nat := 8

/-- `CMD_READ_ROM`: device command, Read ROM (R6, R76). -/
def cmdReadRom : Byte := 0x33#8

/-- `CMD_WRITE_MODE`: device command, enter or exit write mode (R6, R76). -/
def cmdWriteMode : Byte := 0xD1#8

/-- `CMD_WRITE_ROM`: device command, write ROM data (R6, R76). -/
def cmdWriteRom : Byte := 0xD5#8

/-- `READ_COUNT`: the count argument of the byte read (R6, R77). -/
def readCount : Byte := 8#8

/-- `T_SETTLE_MS`: settle delay after skip-ROM, in milliseconds (R6, R134). -/
def tSettleMs : Byte := 20#8

/-- `T_BIT_MS`: delay before each payload bit, in milliseconds (R6, R139). -/
def tBitMs : Byte := 25#8

/-- `T_COOLDOWN_MS`: owned by the UI collaborator; recorded so that a host model can name it and read by
no rule of the engine (R6, spec/60_exceptions.md R190). -/
def tCooldownMs : Nat := 3000

/-- `T_POLL_MS`: owned by the polling loop; recorded so that a host model can name it and read by no rule
of the engine (R6, R190). -/
def tPollMs : Nat := 500

/-- `ID_RESET`: the contents of the identifier buffer after reset, an OPEN parameter (R6, R32, R203;
spec/92_eei_decisions.md D13). It has no body, so a proof about it holds for every value. Log entry 1. -/
opaque idReset : BitVec 64

/-- `DELAY_TOLERANCE`: how far a real delay may differ from its nominal value, an OPEN parameter that no
rule uses (R6, D7). No body, and no definition of the model reads it. Its type is unspecified
(spec/92_eei_decisions.md, "Open parameters, in one list"): that it is a natural number is a DESIGN CHOICE.
Log entry 12. -/
opaque delayTolerance : Nat

end Sys2Proof.Config
end

