-- ==== Sys2Proof/Syntax.lean ====
section
/-! DEFINITION. The instruction type: one constructor for each of the 55 rows of spec/opcode_table.json,
in the table's order, and the small name types the message formats are made of. -/

namespace Sys2Proof

/-- The six requests of the Bus Transport contract (spec/30_encoding.md R72, spec/40_bus_transport.md R100). -/
inductive TrReq where
  | reset
  | skipRom
  | writeByte
  | writeBit
  | readBytes
  | delay
  deriving DecidableEq, Repr

/-- The four reports to the UI collaborator (R74). -/
inductive Report where
  | waiting
  | identifier
  | writeProgress
  | writeComplete
  deriving DecidableEq, Repr

/-- The completion codes (R75). Codes 6 and 7 are never produced (R79), so they have no constructor. -/
inductive Completion where
  /-- `NONE`: the value of `RES` after reset only; never returned. -/
  | none
  | noDevice
  | readDone
  | writeDone
  | userCancel
  | loaded
  deriving DecidableEq, Repr

/-- The 20 micro-steps: the values of `UPC` (spec/10_state.md R23, spec/30_encoding.md R82). The values 20 to
31 are never reached and are unrepresentable here (R79, spec/93_implementation_defined.md U7). -/
inductive MicroStep where
  | idle
  | pRst
  | pNodev
  | rCmd
  | rReq
  | rData
  | rRpt
  | wProg
  | wRst1
  | wSkip
  | wSettle
  | wEnter
  | wRst2
  | wCmd
  | wBdly
  | wBit
  | wRst3
  | wExit
  | wRst4
  | wDone
  deriving DecidableEq, Repr

/-- The rows of spec/opcode_table.json. What the spec has in the place of an instruction set is a set of host
commands, routines, transport requests and device command bytes (R1), with the reports, the completion
codes and the micro-steps of the sequencer beside them. -/
inductive Instr where
  -- Format HC: the host command forms (R71, R78). A field the form ignores is kept, so that no bit is lost.
  /-- `POLL.C`: `POLL` with `cancel = 1` (R154). -/
  | pollC (select : Bool) (payload : BitVec 64)
  /-- `POLL.R`: `POLL` with `cancel = 0`, `select = 0` (R155). -/
  | pollR (payload : BitVec 64)
  /-- `POLL.W`: `POLL` with `cancel = 0`, `select = 1` (R156). -/
  | pollW (payload : BitVec 64)
  /-- `LOAD` (R158). -/
  | load (select cancel : Bool) (payload : BitVec 64)
  -- The two routines (R120, R130).
  | readId
  | writeId
  -- Format TR: the requests of the Bus Transport contract (R102 to R107).
  | reset
  | skipRom
  | writeByte (arg : Byte)
  | writeBit (v : Bool)
  | readBytes (count : Byte)
  | delay (ms : Byte)
  -- The 10 request words the engine can issue (R72).
  | resetWord
  | skipRomWord
  | wbReadRom
  | wbWriteMode
  | wbWriteRom
  | wbit0
  | wbit1
  | rb8
  | dly20
  | dly25
  -- Format WC: the three device command bytes (R76).
  | cmdReadRom
  | cmdWriteMode
  | cmdWriteRom
  -- Format RP: the four reports (R74).
  | rptWaiting
  | rptIdentifier (data : BitVec 64)
  | rptWriteProgress
  | rptWriteComplete
  -- Format CP: the completion codes (R75).
  | cplNone
  | cplNoDevice
  | cplReadDone
  | cplWriteDone
  | cplUserCancel
  | cplLoaded
  -- The micro-steps, by value of UPC (R82).
  | uIdle
  | uPRst
  | uPNodev
  | uRCmd
  | uRReq
  | uRData
  | uRRpt
  | uWProg
  | uWRst1
  | uWSkip
  | uWSettle
  | uWEnter
  | uWRst2
  | uWCmd
  | uWBdly
  | uWBit
  | uWRst3
  | uWExit
  | uWRst4
  | uWDone
  deriving DecidableEq, Repr

end Sys2Proof
end

