-- ==== Sys2Proof/Decode.lean ====
section
/-! DEFINITION. The message formats of spec/30_encoding.md: how each word is put together, the decoder of a
word of each format, total and rejecting by name, and the encoder written from the same tables. A word means
something only on the channel it travels on, so the decoder is told the format; the table's own overlaps
(the value 0 is a POLL.R, a report, a completion code, a request and a micro-step) are then no ambiguity
(log entry 3). -/

namespace Sys2Proof

/-- The formats of the rows of spec/opcode_table.json. `routine` is not a message: it matches on `UPC`. -/
inductive Format where
  | hc
  | routine
  | tr
  | trIssued
  | wc
  | rp
  | cp
  | upc
  deriving DecidableEq, Repr

/-- The width in bits of a word of the format (R70, R80; the table's rows for `routine` and `upc`). -/
def Format.width : Format → Nat
  | .hc => 67
  | .routine => 5
  | .tr => 11
  | .trIssued => 11
  | .wc => 8
  | .rp => 66
  | .cp => 3
  | .upc => 5

/-- The format's length in whole bytes. -/
def Format.bytes (f : Format) : Nat := (f.width + 7) / 8

/-- Why a word is rejected: the encodings rule R79 says are never used, each by its name. -/
inductive Reject where
  /-- a bit above the format's width is set -/
  | tooWide
  /-- the number of bytes is not the format's -/
  | wrongLength
  /-- `TR.req` is 6 or 7 -/
  | reservedRequest
  /-- an argument bit that the request always leaves zero is set -/
  | reservedArgument
  /-- not one of the 10 request words of rule R72 -/
  | neverIssued
  /-- not one of the three device command bytes of rule R76 -/
  | notACommandByte
  /-- the data field of a report other than `IDENTIFIER` is not zero (R74) -/
  | reservedReportData
  /-- completion code 6 or 7 -/
  | reservedCompletion
  /-- `UPC` 20 to 31 -/
  | reservedMicroStep
  /-- a value of `UPC` at which no routine begins -/
  | notARoutineEntry
  deriving DecidableEq, Repr

/-- What the decoder answers. -/
inductive Decoded where
  | instr (i : Instr)
  | rejected (r : Reject)
  deriving DecidableEq, Repr

/-! ## Codes of the fields -/

/-- `TR.req` (R72). -/
def TrReq.code : TrReq → BitVec 3
  | .reset => 0b000#3
  | .skipRom => 0b001#3
  | .writeByte => 0b010#3
  | .writeBit => 0b011#3
  | .readBytes => 0b100#3
  | .delay => 0b101#3

/-- `RP.rpt` (R74). -/
def Report.code : Report → BitVec 2
  | .waiting => 0b00#2
  | .identifier => 0b01#2
  | .writeProgress => 0b10#2
  | .writeComplete => 0b11#2

/-- The completion code (R75). -/
def Completion.code : Completion → CpWord
  | .none => 0#3
  | .noDevice => 1#3
  | .readDone => 2#3
  | .writeDone => 3#3
  | .userCancel => 4#3
  | .loaded => 5#3

/-- The value of `UPC` that names the micro-step (R82). -/
def MicroStep.code : MicroStep → BitVec 5
  | .idle => 0#5
  | .pRst => 1#5
  | .pNodev => 2#5
  | .rCmd => 3#5
  | .rReq => 4#5
  | .rData => 5#5
  | .rRpt => 6#5
  | .wProg => 7#5
  | .wRst1 => 8#5
  | .wSkip => 9#5
  | .wSettle => 10#5
  | .wEnter => 11#5
  | .wRst2 => 12#5
  | .wCmd => 13#5
  | .wBdly => 14#5
  | .wBit => 15#5
  | .wRst3 => 16#5
  | .wExit => 17#5
  | .wRst4 => 18#5
  | .wDone => 19#5

/-! ## Words put together from fields -/

/-- The host command word `(payload, cancel, select, op)` from the most significant field down (R71). -/
def hcWord (op select cancel : Bool) (payload : BitVec 64) : HcWord :=
  payload ++ BitVec.ofBool cancel ++ BitVec.ofBool select ++ BitVec.ofBool op

/-- `HC[0]`, `op` (R71). -/
def hcOp (w : HcWord) : Bool := w.getLsbD 0

/-- `HC[1]`, `select` (R71). -/
def hcSelect (w : HcWord) : Bool := w.getLsbD 1

/-- `HC[2]`, `cancel` (R71). -/
def hcCancel (w : HcWord) : Bool := w.getLsbD 2

/-- `HC[66:3]`, `payload` (R71). -/
def hcPayload (w : HcWord) : BitVec 64 := w.extractLsb' 3 64

/-- The transport request word `(req, arg)` (R72). -/
def trWord (q : TrReq) (arg : Byte) : TrWord := q.code ++ arg

/-- `TR[10:8]`, `req` (R72). -/
def trReq (w : TrWord) : BitVec 3 := w.extractLsb' 8 3

/-- `TR[7:0]`, `arg` (R72). -/
def trArg (w : TrWord) : Byte := w.extractLsb' 0 8

/-- The report word `(data, rpt)` (R74). -/
def rpWord (r : Report) (data : BitVec 64) : RpWord := data ++ r.code

/-- `RP[1:0]`, `rpt` (R74). -/
def rpRpt (w : RpWord) : BitVec 2 := w.extractLsb' 0 2

/-- `RP[65:2]`, `data` (R74). -/
def rpData (w : RpWord) : BitVec 64 := w.extractLsb' 2 64

/-! ## The decoder -/

/-- A host command word: three bits select the form, the decode is total (R78). -/
def decodeHc (w : HcWord) : Instr :=
  if hcOp w then .load (hcSelect w) (hcCancel w) (hcPayload w)
  else if hcCancel w then .pollC (hcSelect w) (hcPayload w)
  else if hcSelect w then .pollW (hcPayload w)
  else .pollR (hcPayload w)

/-- A request word of the Bus Transport contract (R72). The argument of `RESET` and `SKIPROM` is zero and bits 7
to 1 of that of `WRITEBIT` are zero; another value there is one of the never-issued ones of R79. -/
def decodeTr (w : TrWord) : Decoded :=
  match (trReq w).toNat with
  | 0 => if trArg w = 0#8 then .instr .reset else .rejected .reservedArgument
  | 1 => if trArg w = 0#8 then .instr .skipRom else .rejected .reservedArgument
  | 2 => .instr (.writeByte (trArg w))
  | 3 =>
    if trArg w = 0#8 then .instr (.writeBit false)
    else if trArg w = 1#8 then .instr (.writeBit true)
    else .rejected .reservedArgument
  | 4 => .instr (.readBytes (trArg w))
  | 5 => .instr (.delay (trArg w))
  | _ => .rejected .reservedRequest

/-- A report word (R74): only `IDENTIFIER` has data. -/
def decodeRp (w : RpWord) : Decoded :=
  match (rpRpt w).toNat with
  | 0 => if rpData w = 0#64 then .instr .rptWaiting else .rejected .reservedReportData
  | 1 => .instr (.rptIdentifier (rpData w))
  | 2 => if rpData w = 0#64 then .instr .rptWriteProgress else .rejected .reservedReportData
  | _ => if rpData w = 0#64 then .instr .rptWriteComplete else .rejected .reservedReportData

/-- One row of a table of whole words. -/
structure Row where
  word : Nat
  instr : Instr
  deriving DecidableEq, Repr

/-- The 10 request words the engine can issue (R72). -/
def issuedRows : List Row :=
  [⟨0x000, .resetWord⟩, ⟨0x100, .skipRomWord⟩, ⟨0x233, .wbReadRom⟩, ⟨0x2D1, .wbWriteMode⟩, ⟨0x2D5, .wbWriteRom⟩,
   ⟨0x300, .wbit0⟩, ⟨0x301, .wbit1⟩, ⟨0x408, .rb8⟩, ⟨0x514, .dly20⟩, ⟨0x519, .dly25⟩]

/-- The three device command bytes (R76). -/
def commandRows : List Row :=
  [⟨0x33, .cmdReadRom⟩, ⟨0xD1, .cmdWriteMode⟩, ⟨0xD5, .cmdWriteRom⟩]

/-- The completion codes (R75). -/
def completionRows : List Row :=
  [⟨0, .cplNone⟩, ⟨1, .cplNoDevice⟩, ⟨2, .cplReadDone⟩, ⟨3, .cplWriteDone⟩, ⟨4, .cplUserCancel⟩, ⟨5, .cplLoaded⟩]

/-- The routines, by the value of `UPC` they are entered at (R78, R120, R130). -/
def routineRows : List Row :=
  [⟨3, .readId⟩, ⟨7, .writeId⟩]

/-- The micro-steps, by the value of `UPC` (R82). -/
def microRows : List Row :=
  [⟨0, .uIdle⟩, ⟨1, .uPRst⟩, ⟨2, .uPNodev⟩, ⟨3, .uRCmd⟩, ⟨4, .uRReq⟩, ⟨5, .uRData⟩, ⟨6, .uRRpt⟩] ++
  [⟨7, .uWProg⟩, ⟨8, .uWRst1⟩, ⟨9, .uWSkip⟩, ⟨10, .uWSettle⟩, ⟨11, .uWEnter⟩, ⟨12, .uWRst2⟩, ⟨13, .uWCmd⟩] ++
  [⟨14, .uWBdly⟩, ⟨15, .uWBit⟩, ⟨16, .uWRst3⟩, ⟨17, .uWExit⟩, ⟨18, .uWRst4⟩, ⟨19, .uWDone⟩]

/-- Look a word up in a table of whole words. -/
def decodeRow (rows : List Row) (why : Reject) (w : Nat) : Decoded :=
  match rows.find? (fun r => r.word == w) with
  | some r => .instr r.instr
  | none => .rejected why

/-- The decoder of one word of a format, total on every number. -/
def decodeWord (f : Format) (w : Nat) : Decoded :=
  if 2 ^ f.width ≤ w then .rejected .tooWide
  else
    match f with
    | .hc => .instr (decodeHc (BitVec.ofNat 67 w))
    | .routine => decodeRow routineRows .notARoutineEntry w
    | .tr => decodeTr (BitVec.ofNat 11 w)
    | .trIssued => decodeRow issuedRows .neverIssued w
    | .wc => decodeRow commandRows .notACommandByte w
    | .rp => decodeRp (BitVec.ofNat 66 w)
    | .cp => decodeRow completionRows .reservedCompletion w
    | .upc => decodeRow microRows .reservedMicroStep w

/-- The number whose bytes are `bs`, the first byte least significant. The spec carries messages, not bytes; this
layout is the model's own (log entry 4). -/
def ofBytes : List Byte → Nat
  | [] => 0
  | b :: bs => b.toNat + 256 * ofBytes bs

/-- The `n` bytes of a number, least significant first. -/
def toBytes : Nat → Nat → List Byte
  | 0, _ => []
  | n + 1, w => BitVec.ofNat 8 w :: toBytes n (w / 256)

/-- The decoder on any bytes. -/
def decodeBytes (f : Format) (bs : List Byte) : Decoded :=
  if bs.length = f.bytes then decodeWord f (ofBytes bs) else .rejected .wrongLength

/-! ## The encoder -/

/-- The format a row belongs to. -/
def Instr.format : Instr → Format
  | .pollC _ _ | .pollR _ | .pollW _ | .load _ _ _ => .hc
  | .readId | .writeId => .routine
  | .reset | .skipRom | .writeByte _ | .writeBit _ | .readBytes _ | .delay _ => .tr
  | .resetWord | .skipRomWord | .wbReadRom | .wbWriteMode | .wbWriteRom => .trIssued
  | .wbit0 | .wbit1 | .rb8 | .dly20 | .dly25 => .trIssued
  | .cmdReadRom | .cmdWriteMode | .cmdWriteRom => .wc
  | .rptWaiting | .rptIdentifier _ | .rptWriteProgress | .rptWriteComplete => .rp
  | .cplNone | .cplNoDevice | .cplReadDone | .cplWriteDone | .cplUserCancel | .cplLoaded => .cp
  | .uIdle | .uPRst | .uPNodev | .uRCmd | .uRReq | .uRData | .uRRpt => .upc
  | .uWProg | .uWRst1 | .uWSkip | .uWSettle | .uWEnter | .uWRst2 | .uWCmd => .upc
  | .uWBdly | .uWBit | .uWRst3 | .uWExit | .uWRst4 | .uWDone => .upc

/-- The word of an instruction, in its format. -/
def encode : Instr → Nat
  | .pollC select payload => (hcWord false select true payload).toNat
  | .pollR payload => (hcWord false false false payload).toNat
  | .pollW payload => (hcWord false true false payload).toNat
  | .load select cancel payload => (hcWord true select cancel payload).toNat
  | .readId => MicroStep.rCmd.code.toNat
  | .writeId => MicroStep.wProg.code.toNat
  | .reset => (trWord .reset 0#8).toNat
  | .skipRom => (trWord .skipRom 0#8).toNat
  | .writeByte arg => (trWord .writeByte arg).toNat
  | .writeBit v => (trWord .writeBit ((BitVec.ofBool v).setWidth 8)).toNat
  | .readBytes count => (trWord .readBytes count).toNat
  | .delay ms => (trWord .delay ms).toNat
  | .resetWord => 0x000
  | .skipRomWord => 0x100
  | .wbReadRom => 0x233
  | .wbWriteMode => 0x2D1
  | .wbWriteRom => 0x2D5
  | .wbit0 => 0x300
  | .wbit1 => 0x301
  | .rb8 => 0x408
  | .dly20 => 0x514
  | .dly25 => 0x519
  | .cmdReadRom => 0x33
  | .cmdWriteMode => 0xD1
  | .cmdWriteRom => 0xD5
  | .rptWaiting => (rpWord .waiting 0#64).toNat
  | .rptIdentifier data => (rpWord .identifier data).toNat
  | .rptWriteProgress => (rpWord .writeProgress 0#64).toNat
  | .rptWriteComplete => (rpWord .writeComplete 0#64).toNat
  | .cplNone => Completion.none.code.toNat
  | .cplNoDevice => Completion.noDevice.code.toNat
  | .cplReadDone => Completion.readDone.code.toNat
  | .cplWriteDone => Completion.writeDone.code.toNat
  | .cplUserCancel => Completion.userCancel.code.toNat
  | .cplLoaded => Completion.loaded.code.toNat
  | .uIdle => MicroStep.idle.code.toNat
  | .uPRst => MicroStep.pRst.code.toNat
  | .uPNodev => MicroStep.pNodev.code.toNat
  | .uRCmd => MicroStep.rCmd.code.toNat
  | .uRReq => MicroStep.rReq.code.toNat
  | .uRData => MicroStep.rData.code.toNat
  | .uRRpt => MicroStep.rRpt.code.toNat
  | .uWProg => MicroStep.wProg.code.toNat
  | .uWRst1 => MicroStep.wRst1.code.toNat
  | .uWSkip => MicroStep.wSkip.code.toNat
  | .uWSettle => MicroStep.wSettle.code.toNat
  | .uWEnter => MicroStep.wEnter.code.toNat
  | .uWRst2 => MicroStep.wRst2.code.toNat
  | .uWCmd => MicroStep.wCmd.code.toNat
  | .uWBdly => MicroStep.wBdly.code.toNat
  | .uWBit => MicroStep.wBit.code.toNat
  | .uWRst3 => MicroStep.wRst3.code.toNat
  | .uWExit => MicroStep.wExit.code.toNat
  | .uWRst4 => MicroStep.wRst4.code.toNat
  | .uWDone => MicroStep.wDone.code.toNat

/-- The bytes of an instruction's word. -/
def encodeBytes (i : Instr) : List Byte := toBytes i.format.bytes (encode i)

/-! ## The table's numbering -/

/-- The formats of a word of so many bytes, in the order the decoder tries them when it is told a length and no
channel: the micro-step numbers before the device command bytes (they share no value), the 10 issued
request words before the general requests, the host command words before the reports. A shorter code that shares
its values with these (completion codes, routine entries) is reached only through its own format. Log entry 3. -/
def formatsOfLength : Nat → List Format
  | 1 => [.upc, .wc, .cp, .routine]
  | 2 => [.trIssued, .tr]
  | 9 => [.hc, .rp]
  | _ => []

/-- The first format under which the bytes decode. -/
def decodeFirst (bs : List Byte) : List Format → Option Instr
  | [] => none
  | f :: fs =>
    match decodeBytes f bs with
    | .instr i => some i
    | .rejected _ => decodeFirst bs fs

/-- The instruction read from a word the opcode table numbers: `nbits` bits, bit 0 least significant. -/
def decodeTableWord (nbits w : Nat) : Option Instr :=
  if 2 ^ nbits ≤ w then none
  else decodeFirst (toBytes ((nbits + 7) / 8) w) (formatsOfLength ((nbits + 7) / 8))

end Sys2Proof
end

