-- ==== Sys2Proof/Machine/State.lean ====
section
/-! DEFINITION. The state of the engine (spec/10_state.md R20, R32), of its channels (spec/00_scope.md R8, R10;
spec/30_encoding.md R70) and the reasons a step can stop. Plain data throughout. -/

namespace Sys2Proof.Machine

/-- The values of `ST` (R22). `0b11` is never reached (R79) and is unrepresentable here. -/
inductive Proto where
  | idle
  | reading
  | writing
  deriving DecidableEq, Repr

/-- One message of the trace (R10): what the engine exchanged, in order. -/
inductive Event where
  /-- a host command word taken -/
  | command (hc : HcWord)
  /-- a request issued to the Bus Transport, with its response -/
  | exchange (req : TrWord) (rsp : TsWord)
  /-- a data beat taken -/
  | beat (d : Byte)
  /-- a report the UI collaborator has taken -/
  | report (rp : RpWord)
  /-- a completion code returned to the host -/
  | completion (cp : CpWord)
  deriving DecidableEq, Repr

/-- What the Bus Transport gives in answer to one request, and to no other (R101): the response word, and the beats that
follow it where the request is a `READBYTES` (R73). Log entry 5. -/
structure Reply where
  rdata : TsWord
  beats : List Byte
  deriving DecidableEq, Repr

/-- The reasons for a fault. There is none: no behaviour of the spec has the treatment `fault`
(spec/93_implementation_defined.md part 1; spec/60_exceptions.md R180), so no step of the model raises one. The
engine's two conditions are completions, and a collaborator that never answers leaves the state as it is. Safe. -/
inductive Fault : Type
  deriving DecidableEq, Repr

/-- The reasons for a refusal. -/
inductive Refusal where
  /-- Raised by an arm of `exec` for an instruction without a meaning, by its name. No arm of this model raises it.
  Safe: nothing is claimed of a step that stops. -/
  | notModelled (mnemonic : String)
  deriving DecidableEq, Repr

/-- The engine's own state is the first seven fields, and no other (R20). The fields after them are the model's:
the channels as the engine meets them, each a list in the order the other side offers (log entries 2, 5 and 6), and
the trace. -/
structure State where
  /-- `ID[0]` to `ID[7]`, the identifier buffer (R21) -/
  idBuf : IdBuf
  /-- `ST`, the protocol state (R22) -/
  st : Proto
  /-- `UPC`, the sequencer's program counter (R23) -/
  upc : MicroStep
  /-- `BYTE`, the index of the identifier byte in hand (R24) -/
  byte : BitVec 3
  /-- `BIT`, the index of the payload bit in hand (R24) -/
  bit : BitVec 3
  /-- `SEL`, the select input as sampled when the `POLL` was taken (R25) -/
  sel : Bool
  /-- `RES`, the completion code of the last finished command (R26) -/
  res : Completion
  /-- the level of the input `rst` at this step and at the steps to come, released after the last (R200) -/
  rst : List Bool
  /-- the host command words the host offers, in order; the first is the one on the command channel (R151) -/
  cmds : List HcWord
  /-- the Bus Transport's answers to the requests to come, one for each, in order (R73, R101) -/
  replies : List Reply
  /-- the beats of the accepted `READBYTES` that are still owed, in order (R73, R101) -/
  owed : List Byte
  /-- how many more reports the UI collaborator takes (R159, R195) -/
  acks : Nat
  /-- the messages exchanged so far, oldest first (R10) -/
  trace : List Event
  deriving DecidableEq, Repr

/-- The identifier of a 64-bit value: byte `k` is bits `[8k+7 : 8k]` (spec/20_memory.md R52). -/
def idOfValue (v : BitVec 64) : IdBuf :=
  #v[v.extractLsb' 0 8, v.extractLsb' 8 8, v.extractLsb' 16 8, v.extractLsb' 24 8,
     v.extractLsb' 32 8, v.extractLsb' 40 8, v.extractLsb' 48 8, v.extractLsb' 56 8]

/-- The machine right after reset (R32, R200): `ST = IDLE`, `UPC = 0`, `BYTE = BIT = SEL = 0`, `RES = NONE`,
`ID = ID_RESET`. No message is outstanding and none has been exchanged; the other agents offer nothing
(log entry 2). -/
def State.reset : State where
  idBuf := idOfValue Config.idReset
  st := .idle
  upc := .idle
  byte := 0#3
  bit := 0#3
  sel := false
  res := .none
  rst := []
  cmds := []
  replies := []
  owed := []
  acks := 0
  trace := []

end Sys2Proof.Machine
end

