-- ==== Sys2Proof/Machine/Flags.lean ====
section
/-! DEFINITION. The engine has no stored flag or condition code (spec/10_state.md R27). The one flag of the source,
the Device Presence Flag, is the response bit of one exchange; `ready` is derived from `UPC` (R29). -/

namespace Sys2Proof.Machine

/-- The Device Presence Flag: bit 0 of the response to a `RESET`; bits 7 to 1 are ignored (R27, R73). -/
def presence (rdata : TsWord) : Bool := rdata.getLsbD 0

/-- `ready = (UPC == 0)` (R29, R151). -/
def ready (s : State) : Bool := s.upc == .idle

end Sys2Proof.Machine
end

