-- ==== Sys2Proof/Machine/Operands.lean ====
section
/-! DEFINITION. The operand forms of the engine: the identifier buffer as registers and as an 8-byte memory
(spec/20_memory.md R50 to R54, spec/00_scope.md R8), its packing into one value (R52), the payload marshaler
(spec/42_write_identifier.md R141) and the arguments of the messages (spec/30_encoding.md R77). -/

namespace Sys2Proof.Machine

/-! ## The identifier buffer -/

/-- A 3-bit index is an index of the buffer, so no access can miss it (R53). -/
theorem idIndex_lt (k : BitVec 3) : k.toNat < 8 := k.isLt

/-- `ID[k]`, and `MemRead(k, 1)` (R8). -/
def idGet (v : IdBuf) (k : BitVec 3) : Byte := v[k.toNat]'(idIndex_lt k)

/-- `ID[k] <- d`, and `MemWrite(k, 1, d)` (R8). -/
def idSet (v : IdBuf) (k : BitVec 3) (d : Byte) : IdBuf := v.set k.toNat d (idIndex_lt k)

/-- `MemRead(0, 8)`: the whole identifier packed into one value, byte `k` at bits `[8k+7 : 8k]` (R52). -/
def idValue (v : IdBuf) : BitVec 64 :=
  v[7] ++ v[6] ++ v[5] ++ v[4] ++ v[3] ++ v[2] ++ v[1] ++ v[0]

/-- The engine writes one byte of the buffer. -/
def State.writeId (s : State) (k : BitVec 3) (d : Byte) : State := { s with idBuf := idSet s.idBuf k d }

/-- `MemWrite(0, 8, v)`: all eight bytes in one step (R54, R158). -/
def State.loadId (s : State) (v : BitVec 64) : State := { s with idBuf := idOfValue v }

/-! ## The buffer seen as a memory -/

/-- The one address space of the engine as cells: eight addresses, 0 to 7, each listed (R50). The cells are
computed from the register file, which is the only storage. -/
def State.memory (s : State) : List Host.Cell :=
  [(0, idGet s.idBuf 0#3), (1, idGet s.idBuf 1#3), (2, idGet s.idBuf 2#3), (3, idGet s.idBuf 3#3),
   (4, idGet s.idBuf 4#3), (5, idGet s.idBuf 5#3), (6, idGet s.idBuf 6#3), (7, idGet s.idBuf 7#3)]

/-- Addresses strictly rising. -/
def Memory.rising : List Host.Cell → Bool
  | [] => true
  | [_] => true
  | a :: b :: rest => decide (a.1 < b.1) && Memory.rising (b :: rest)

/-- The one form a memory has: the eight addresses of R50, strictly rising, each listed once. No address of the
space is unlisted, so there is nothing an unlisted address could read as. -/
def Memory.wf (m : List Host.Cell) : Bool :=
  Memory.rising m && m.map (·.1) == [0, 1, 2, 3, 4, 5, 6, 7]

/-! ## The marshaler and the arguments of the messages -/

/-- The value sent for one payload bit: the complement of bit `BIT` of `ID[BYTE]` (R141). -/
def payloadBit (v : IdBuf) (byte bit : BitVec 3) : Bool := !((idGet v byte).getLsbD bit.toNat)

/-- The argument of a `WRITEBIT` that sends `v`: `zext_8(v)` (R77). -/
def bitArg (v : Bool) : Byte := (BitVec.ofBool v).setWidth 8

/-- The report word of `IDENTIFIER`: `data` is the packed buffer (R74, R77, R124). -/
def identifierReport (v : IdBuf) : RpWord := rpWord .identifier (idValue v)

/-! ## The script notation (R81) -/

/-- `POLL sel=<0|1> can=<0|1>`, with the ignored payload field zero. -/
def scriptPoll (select cancel : Bool) : HcWord := hcWord false select cancel 0#64

/-- `LOAD b0 b1 b2 b3 b4 b5 b6 b7`, with the ignored select and cancel fields zero. -/
def scriptLoad (bytes : IdBuf) : HcWord := hcWord true false false (idValue bytes)

/-- `CLONE b0 … b7`: `LOAD b0 … b7` and then `POLL.W`. -/
def scriptClone (bytes : IdBuf) : List HcWord := [scriptLoad bytes, scriptPoll true false]

end Sys2Proof.Machine
end

