-- ==== Sys2Proof/Machine/Ops.lean ====
section
/-! DEFINITION. The operations every meaning is made of: the message primitives of spec/00_scope.md R8, each one
atomic step, the completion of a command, the raising of a condition (spec/60_exceptions.md R180 to R187) and the
reset (spec/70_reset_and_hazards.md R200). An operation that needs a message the other side does not give leaves
the state as it is: the engine waits, without limit (R195). -/

namespace Sys2Proof.Machine

/-- `UPC <- u` (R8). -/
def State.goto (s : State) (u : MicroStep) : State := { s with upc := u }

/-- `ST <- p`. -/
def State.setSt (s : State) (p : Proto) : State := { s with st := p }

/-- `BYTE <- n`. -/
def State.setByte (s : State) (n : BitVec 3) : State := { s with byte := n }

/-- `BIT <- n`. -/
def State.setBit (s : State) (n : BitVec 3) : State := { s with bit := n }

/-- `SEL <- b`. -/
def State.setSel (s : State) (b : Bool) : State := { s with sel := b }

/-- Add one message to the trace (R10). -/
def State.record (s : State) (e : Event) : State := { s with trace := s.trace ++ [e] }

/-- How many beats the engine takes after the acceptance of a request: `count` of a `READBYTES`, none of any other
(R73, R101). -/
def beatsDue (w : TrWord) : Nat :=
  match (trReq w).toNat with
  | 4 => (trArg w).toNat
  | _ => 0

/-- `rsp <- xchg(REQ, arg)`: issue the request word and take its response, in one step, and go on with it; with no
response the step does not happen (R8, R101, R195). The beats owed are then those due to this request and no other: a
surplus beat has no step that takes it (D20, U14; log entry 5). -/
def exchange (w : TrWord) (k : TsWord → State → State) (s : State) : State :=
  match s.replies with
  | [] => s
  | r :: rest =>
    k r.rdata ({ s with replies := rest, owed := r.beats.take (beatsDue w) }.record (.exchange w r.rdata))

/-- `d <- beat()`: take the next data beat of an accepted `READBYTES` and go on with it (R8, R73). -/
def takeBeat (k : Byte → State → State) (s : State) : State :=
  match s.owed with
  | [] => s
  | d :: rest => k d ({ s with owed := rest }.record (.beat d))

/-- `report(RPT, data)`: the step ends when the UI collaborator has taken the report (R8, R159). -/
def sendReport (w : RpWord) (k : State → State) (s : State) : State :=
  match s.acks with
  | 0 => s
  | n + 1 => k ({ s with acks := n }.record (.report w))

/-- `complete(code)`: `RES <- code`, `UPC <- U_IDLE`, `ST <- IDLE`, and the code is returned (R8, R160). -/
def complete (c : Completion) (s : State) : State :=
  { s with res := c, upc := .idle, st := .idle }.record (.completion c.code)

/-- The host's command word is taken off the command channel, which is open only at `UPC == 0`; at any other `UPC`
the command waits, untaken and without effect (R151). -/
def takeCommand (w : HcWord) (k : State → State) (s : State) : State :=
  if ready s then k ({ s with cmds := s.cmds.tail }.record (.command w)) else s

/-- The conditions the engine detects (R180). TransactionInterrupted is not detected and has no constructor (R182). -/
inductive Condition where
  | noDevicePresent
  | userCancel
  deriving DecidableEq, Repr

/-- `raise <Condition>`: taking an exception on this engine, in full. No state is saved, no mode changes and no
handler address exists (R186): NoDevicePresent goes to the micro-step that reports and completes (R181), and
UserCancel is the completion itself (R183). There is no return: nothing was saved and the engine is ready again
(R187). -/
def raise : Condition → State → State
  | .noDevicePresent, s => s.goto .pNodev
  | .userCancel, s => complete .userCancel s

/-- The reset input's effect: all of the engine's state takes its reset value in one step, from any state, and no
message goes out (R200, R201). The beats still owed are never taken (spec/95_test_vectors.md vector 2.12). The other
channels and the trace are not the engine's state and stay (log entries 2 and 14). -/
def resetEngine (s : State) : State :=
  { s with
    idBuf := idOfValue Config.idReset
    st := .idle
    upc := .idle
    byte := 0#3
    bit := 0#3
    sel := false
    res := .none
    owed := [] }

/-- The level of `rst` at this step. -/
def State.rstNow (s : State) : Bool :=
  match s.rst with
  | [] => false
  | level :: _ => level

/-- One step's share of the `rst` levels has passed. -/
def State.tick (s : State) : State := { s with rst := s.rst.tail }

/-- `POLL` as taken (R152): the cancel check first; else `SEL <- select` and the presence check is the next step. -/
def pollTaken (select cancel : Bool) (s : State) : State :=
  if cancel then raise .userCancel s else (s.setSel select).goto .pRst

/-- `LOAD` as taken (R158). -/
def loadTaken (payload : BitVec 64) (s : State) : State := complete .loaded (s.loadId payload)

/-- Nothing more to do. -/
def done (s : State) : State := s

end Sys2Proof.Machine
end

