-- ==== Sys2Proof/Machine/HostCommands.lean ====
section
/-! DEFINITION. The meanings of the host command forms (spec/43_dispatch_and_host.md R152 to R158). Each is the step
that takes the command off the command channel; the micro-steps that follow a `POLL` are in Dispatching.lean,
Reading.lean and Writing.lean. -/

namespace Sys2Proof.Machine

/-- `POLL.C` (R154): `complete(USER_CANCEL)` and nothing else. -/
def execPollC (select : Bool) (payload : BitVec 64) (s : State) : Host.Outcome State Fault Refusal :=
  .next (takeCommand (hcWord false select true payload) (pollTaken select true) s)

/-- `POLL.R` (R155): `SEL <- 0`, `UPC <- 1`. -/
def execPollR (payload : BitVec 64) (s : State) : Host.Outcome State Fault Refusal :=
  .next (takeCommand (hcWord false false false payload) (pollTaken false false) s)

/-- `POLL.W` (R156): `SEL <- 1`, `UPC <- 1`. -/
def execPollW (payload : BitVec 64) (s : State) : Host.Outcome State Fault Refusal :=
  .next (takeCommand (hcWord false true false payload) (pollTaken true false) s)

/-- `LOAD` (R158): all eight bytes at once, then `complete(LOADED)`; select and cancel are ignored. -/
def execLoad (select cancel : Bool) (payload : BitVec 64) (s : State) : Host.Outcome State Fault Refusal :=
  .next (takeCommand (hcWord true select cancel payload) (loadTaken payload) s)

end Sys2Proof.Machine
end

