-- ==== Sys2Proof/Machine/Reports.lean ====
section
/-! DEFINITION. The meanings of the report words (spec/30_encoding.md R74, spec/43_dispatch_and_host.md R159) and of the
completion codes (R75, R160). A report row is the message to the UI collaborator; a completion row is the end of a host
command with that code. Log entries 7 and 8. -/

namespace Sys2Proof.Machine

/-- `WAITING`: `displayWaitingState()` (R157). -/
def execRptWaiting (s : State) : Host.Outcome State Fault Refusal :=
  .next (sendReport (rpWord .waiting 0#64) done s)

/-- `IDENTIFIER`: `displayIdentifier(bytes[8])` (R124). -/
def execRptIdentifier (data : BitVec 64) (s : State) : Host.Outcome State Fault Refusal :=
  .next (sendReport (rpWord .identifier data) done s)

/-- `WRITE_PROGRESS`: `displayWriteProgress()` (R131). -/
def execRptWriteProgress (s : State) : Host.Outcome State Fault Refusal :=
  .next (sendReport (rpWord .writeProgress 0#64) done s)

/-- `WRITE_COMPLETE`: `displayWriteComplete()` (R146). -/
def execRptWriteComplete (s : State) : Host.Outcome State Fault Refusal :=
  .next (sendReport (rpWord .writeComplete 0#64) done s)

/-- `NONE`: never returned; the one event that leaves it in `RES` is reset, so the row's effect is reset's (R75, R32,
R200; log entry 8). -/
def execCplNone (s : State) : Host.Outcome State Fault Refusal :=
  .next (resetEngine s)

/-- `NO_DEVICE` (R157). -/
def execCplNoDevice (s : State) : Host.Outcome State Fault Refusal :=
  .next (complete .noDevice s)

/-- `READ_DONE` (R124). -/
def execCplReadDone (s : State) : Host.Outcome State Fault Refusal :=
  .next (complete .readDone s)

/-- `WRITE_DONE` (R146). -/
def execCplWriteDone (s : State) : Host.Outcome State Fault Refusal :=
  .next (complete .writeDone s)

/-- `USER_CANCEL` (R154). -/
def execCplUserCancel (s : State) : Host.Outcome State Fault Refusal :=
  .next (complete .userCancel s)

/-- `LOADED` (R158). -/
def execCplLoaded (s : State) : Host.Outcome State Fault Refusal :=
  .next (complete .loaded s)

end Sys2Proof.Machine
end

