-- ==== Sys2Proof/Machine/Dispatching.lean ====
section
/-! DEFINITION. The micro-steps 0 to 2: taking a host command, the presence check with the dispatch, and the report
that no device is there (spec/43_dispatch_and_host.md R152, R153, R157). -/

namespace Sys2Proof.Machine

/-- A host command word, from its fields: `op` selects `LOAD` (R158) or `POLL` (R152). -/
def commandTaken (w : HcWord) (s : State) : State :=
  if hcOp w then loadTaken (hcPayload w) s else pollTaken (hcSelect w) (hcCancel w) s

/-- `U_IDLE`, `UPC = 0`: take the host command word on the command channel; with none offered, wait (R151, R202). -/
def execUIdle (s : State) : Host.Outcome State Fault Refusal :=
  match s.cmds with
  | [] => .next s
  | w :: _ => .next (takeCommand w (commandTaken w) s)

/-- The dispatch on the presence bit and `SEL` (R153). -/
def dispatchPoll (rdata : TsWord) (s : State) : State :=
  if presence rdata then
    if s.sel then (s.setSt .writing).goto .wProg else (s.setSt .reading).goto .rCmd
  else raise .noDevicePresent s

/-- `U_P_RST`, `UPC = 1`: `p <- xchg(RESET, 0)[0]`, then the dispatch (R153). -/
def execUPRst (s : State) : Host.Outcome State Fault Refusal :=
  .next (exchange (trWord .reset 0#8) dispatchPoll s)

/-- `U_P_NODEV`, `UPC = 2`: `report(WAITING)`, `complete(NO_DEVICE)` (R157). -/
def execUPNodev (s : State) : Host.Outcome State Fault Refusal :=
  .next (sendReport (rpWord .waiting 0#64) (complete .noDevice) s)

end Sys2Proof.Machine
end

