-- ==== Sys2Proof/Machine/Reading.lean ====
section
/-! DEFINITION. The micro-steps 3 to 6, the routine READ_ID (spec/41_read_identifier.md R121 to R124). -/

namespace Sys2Proof.Machine

/-- `U_R_CMD`, `UPC = 3`: `xchg(WRITEBYTE, 0x33)` (R121). -/
def execURCmd (s : State) : Host.Outcome State Fault Refusal :=
  .next (exchange (trWord .writeByte Config.cmdReadRom) (fun _ t => t.goto .rReq) s)

/-- `U_R_REQ`, `UPC = 4`: `xchg(READBYTES, 8)`, `BYTE <- 0` (R122). -/
def execURReq (s : State) : Host.Outcome State Fault Refusal :=
  .next (exchange (trWord .readBytes Config.readCount) (fun _ t => (t.setByte 0#3).goto .rData) s)

/-- What is done with a beat: `ID[BYTE] <- d`, and count; `BYTE` does not wrap (R123). -/
def storeBeat (d : Byte) (s : State) : State :=
  if s.byte = 7#3 then (s.writeId s.byte d).goto .rRpt
  else (s.writeId s.byte d).setByte (s.byte + 1#3)

/-- `U_R_DATA`, `UPC = 5`: `ID[BYTE] <- beat()` (R123). -/
def execURData (s : State) : Host.Outcome State Fault Refusal :=
  .next (takeBeat storeBeat s)

/-- `U_R_RPT`, `UPC = 6`: `report(IDENTIFIER, MemRead(0, 8))`, `complete(READ_DONE)` (R124). -/
def execURRpt (s : State) : Host.Outcome State Fault Refusal :=
  .next (sendReport (identifierReport s.idBuf) (complete .readDone) s)

end Sys2Proof.Machine
end

