-- ==== Sys2Proof/Machine/Writing.lean ====
section
/-! DEFINITION. The micro-steps 7 to 19, the routine WRITE_ID (spec/42_write_identifier.md R131 to R146). The presence
bits of its four resets are dropped (R138). -/

namespace Sys2Proof.Machine

/-- `U_W_PROG`, `UPC = 7`: `report(WRITE_PROGRESS)` (R131). -/
def execUWProg (s : State) : Host.Outcome State Fault Refusal :=
  .next (sendReport (rpWord .writeProgress 0#64) (fun t => t.goto .wRst1) s)

/-- `U_W_RST1`, `UPC = 8`: `xchg(RESET, 0)` (R132). -/
def execUWRst1 (s : State) : Host.Outcome State Fault Refusal :=
  .next (exchange (trWord .reset 0#8) (fun _ t => t.goto .wSkip) s)

/-- `U_W_SKIP`, `UPC = 9`: `xchg(SKIPROM, 0)` (R133). -/
def execUWSkip (s : State) : Host.Outcome State Fault Refusal :=
  .next (exchange (trWord .skipRom 0#8) (fun _ t => t.goto .wSettle) s)

/-- `U_W_SETTLE`, `UPC = 10`: `xchg(DELAY, 20)` (R134). -/
def execUWSettle (s : State) : Host.Outcome State Fault Refusal :=
  .next (exchange (trWord .delay Config.tSettleMs) (fun _ t => t.goto .wEnter) s)

/-- `U_W_ENTER`, `UPC = 11`: `xchg(WRITEBYTE, 0xD1)` (R135). -/
def execUWEnter (s : State) : Host.Outcome State Fault Refusal :=
  .next (exchange (trWord .writeByte Config.cmdWriteMode) (fun _ t => t.goto .wRst2) s)

/-- `U_W_RST2`, `UPC = 12`: `xchg(RESET, 0)`; no skip-ROM follows (R136). -/
def execUWRst2 (s : State) : Host.Outcome State Fault Refusal :=
  .next (exchange (trWord .reset 0#8) (fun _ t => t.goto .wCmd) s)

/-- `U_W_CMD`, `UPC = 13`: `xchg(WRITEBYTE, 0xD5)`, `BYTE <- 0`, `BIT <- 0` (R137). -/
def execUWCmd (s : State) : Host.Outcome State Fault Refusal :=
  .next (exchange (trWord .writeByte Config.cmdWriteRom) (fun _ t => ((t.setByte 0#3).setBit 0#3).goto .wBdly) s)

/-- `U_W_BDLY`, `UPC = 14`: `xchg(DELAY, 25)`, before each bit (R139). -/
def execUWBdly (s : State) : Host.Outcome State Fault Refusal :=
  .next (exchange (trWord .delay Config.tBitMs) (fun _ t => t.goto .wBit) s)

/-- The loop control of the bit loop; the counters never wrap (R140). -/
def nextBit (s : State) : State :=
  if s.bit ≠ 7#3 then (s.setBit (s.bit + 1#3)).goto .wBdly
  else if s.byte ≠ 7#3 then ((s.setByte (s.byte + 1#3)).setBit 0#3).goto .wBdly
  else s.goto .wRst3

/-- `U_W_BIT`, `UPC = 15`: `xchg(WRITEBIT, ~ID[BYTE][BIT])`, and count (R140, R141). -/
def execUWBit (s : State) : Host.Outcome State Fault Refusal :=
  .next (exchange (trWord .writeBit (bitArg (payloadBit s.idBuf s.byte s.bit))) (fun _ => nextBit) s)

/-- `U_W_RST3`, `UPC = 16`: `xchg(RESET, 0)` (R143). -/
def execUWRst3 (s : State) : Host.Outcome State Fault Refusal :=
  .next (exchange (trWord .reset 0#8) (fun _ t => t.goto .wExit) s)

/-- `U_W_EXIT`, `UPC = 17`: `xchg(WRITEBYTE, 0xD1)` (R144). -/
def execUWExit (s : State) : Host.Outcome State Fault Refusal :=
  .next (exchange (trWord .writeByte Config.cmdWriteMode) (fun _ t => t.goto .wRst4) s)

/-- `U_W_RST4`, `UPC = 18`: `xchg(RESET, 0)` (R145). -/
def execUWRst4 (s : State) : Host.Outcome State Fault Refusal :=
  .next (exchange (trWord .reset 0#8) (fun _ t => t.goto .wDone) s)

/-- `U_W_DONE`, `UPC = 19`: `report(WRITE_COMPLETE)`, `complete(WRITE_DONE)` (R146). -/
def execUWDone (s : State) : Host.Outcome State Fault Refusal :=
  .next (sendReport (rpWord .writeComplete 0#64) (complete .writeDone) s)

end Sys2Proof.Machine
end

