-- ==== Sys2Proof/Machine/Routines.lean ====
section
/-! DEFINITION. The two routines as wholes (spec/41_read_identifier.md R120, spec/42_write_identifier.md R130): from the
state the dispatch enters them in, as many micro-steps as the routine takes. Where an answer is missing the routine
stands at the micro-step that waits for it (R195). Log entry 9. -/

namespace Sys2Proof.Machine

/-- The micro-step `UPC` names (R82). -/
def microStep (s : State) : Host.Outcome State Fault Refusal :=
  match s.upc with
  | .idle => execUIdle s
  | .pRst => execUPRst s
  | .pNodev => execUPNodev s
  | .rCmd => execURCmd s
  | .rReq => execURReq s
  | .rData => execURData s
  | .rRpt => execURRpt s
  | .wProg => execUWProg s
  | .wRst1 => execUWRst1 s
  | .wSkip => execUWSkip s
  | .wSettle => execUWSettle s
  | .wEnter => execUWEnter s
  | .wRst2 => execUWRst2 s
  | .wCmd => execUWCmd s
  | .wBdly => execUWBdly s
  | .wBit => execUWBit s
  | .wRst3 => execUWRst3 s
  | .wExit => execUWExit s
  | .wRst4 => execUWRst4 s
  | .wDone => execUWDone s

/-- At most `n` micro-steps, up to the return to `U_IDLE`. -/
def runRoutine : Nat → State → Host.Outcome State Fault Refusal
  | 0, s => .next s
  | n + 1, s =>
    if s.upc = .idle then .next s
    else
      match microStep s with
      | .next t => runRoutine n t
      | .fault r => .fault r
      | .refused r => .refused r

/-- `READ_ID`: entered at `UPC = 3` with `ST = READING`; 2 exchanges, 8 beats and 1 report, 11 steps (R120). -/
def execReadId (s : State) : Host.Outcome State Fault Refusal :=
  runRoutine 11 ((s.setSt .reading).goto .rCmd)

/-- `WRITE_ID`: entered at `UPC = 7` with `ST = WRITING`; 137 exchanges and 2 reports, 139 steps (R130). -/
def execWriteId (s : State) : Host.Outcome State Fault Refusal :=
  runRoutine 139 ((s.setSt .writing).goto .wProg)

end Sys2Proof.Machine
end

