-- ==== Sys2Proof/Machine/Transport.lean ====
section
/-! DEFINITION. The meanings of the Bus Transport requests (spec/40_bus_transport.md R102 to R107), of the 10 request
words the engine can issue (spec/30_encoding.md R72) and of the three device command bytes (R76). Each is one exchange
on the transport channel and writes no state of the engine by itself; the micro-step that makes the exchange adds
what it does with the answer. Log entry 7. -/

namespace Sys2Proof.Machine

/-- `RESET` (R102). The presence bit is the caller's to use or to drop. -/
def execReset (s : State) : Host.Outcome State Fault Refusal :=
  .next (exchange (trWord .reset 0#8) (fun _ => done) s)

/-- `SKIPROM` (R103). -/
def execSkipRom (s : State) : Host.Outcome State Fault Refusal :=
  .next (exchange (trWord .skipRom 0#8) (fun _ => done) s)

/-- `WRITEBYTE` (R104): the true bit values of `arg` are sent. -/
def execWriteByte (arg : Byte) (s : State) : Host.Outcome State Fault Refusal :=
  .next (exchange (trWord .writeByte arg) (fun _ => done) s)

/-- `WRITEBIT` (R105): the value given is the value sent; the complement is the marshaler's (R141). -/
def execWriteBit (v : Bool) (s : State) : Host.Outcome State Fault Refusal :=
  .next (exchange (trWord .writeBit (bitArg v)) (fun _ => done) s)

/-- `READBYTES` (R106): the request and its acceptance; the beats are taken by `U_R_DATA` (R123). -/
def execReadBytes (count : Byte) (s : State) : Host.Outcome State Fault Refusal :=
  .next (exchange (trWord .readBytes count) (fun _ => done) s)

/-- `DELAY` (R107): for the engine an exchange like any other; no time is modelled (R216, R218). -/
def execDelay (ms : Byte) (s : State) : Host.Outcome State Fault Refusal :=
  .next (exchange (trWord .delay ms) (fun _ => done) s)

/-- Request word `0x000` (R72, R102). -/
def execResetWord (s : State) : Host.Outcome State Fault Refusal :=
  .next (exchange 0x000#11 (fun _ => done) s)

/-- Request word `0x100` (R72, R133). -/
def execSkipRomWord (s : State) : Host.Outcome State Fault Refusal :=
  .next (exchange 0x100#11 (fun _ => done) s)

/-- Request word `0x233` (R72, R121). -/
def execWbReadRom (s : State) : Host.Outcome State Fault Refusal :=
  .next (exchange 0x233#11 (fun _ => done) s)

/-- Request word `0x2D1` (R72, R135). -/
def execWbWriteMode (s : State) : Host.Outcome State Fault Refusal :=
  .next (exchange 0x2D1#11 (fun _ => done) s)

/-- Request word `0x2D5` (R72, R137). -/
def execWbWriteRom (s : State) : Host.Outcome State Fault Refusal :=
  .next (exchange 0x2D5#11 (fun _ => done) s)

/-- Request word `0x300`: the payload bit was 1 (R72, R141). -/
def execWbit0 (s : State) : Host.Outcome State Fault Refusal :=
  .next (exchange 0x300#11 (fun _ => done) s)

/-- Request word `0x301`: the payload bit was 0 (R72, R141). -/
def execWbit1 (s : State) : Host.Outcome State Fault Refusal :=
  .next (exchange 0x301#11 (fun _ => done) s)

/-- Request word `0x408` (R72, R122). -/
def execRb8 (s : State) : Host.Outcome State Fault Refusal :=
  .next (exchange 0x408#11 (fun _ => done) s)

/-- Request word `0x514` (R72, R134). -/
def execDly20 (s : State) : Host.Outcome State Fault Refusal :=
  .next (exchange 0x514#11 (fun _ => done) s)

/-- Request word `0x519` (R72, R139). -/
def execDly25 (s : State) : Host.Outcome State Fault Refusal :=
  .next (exchange 0x519#11 (fun _ => done) s)

/-- Device command byte `0x33`, Read ROM, sent as the argument of a `WRITEBYTE` (R76). -/
def execCmdReadRom (s : State) : Host.Outcome State Fault Refusal :=
  .next (exchange (trWord .writeByte Config.cmdReadRom) (fun _ => done) s)

/-- Device command byte `0xD1`, enter or exit write mode, sent as the argument of a `WRITEBYTE` (R76). -/
def execCmdWriteMode (s : State) : Host.Outcome State Fault Refusal :=
  .next (exchange (trWord .writeByte Config.cmdWriteMode) (fun _ => done) s)

/-- Device command byte `0xD5`, write ROM data, sent as the argument of a `WRITEBYTE` (R76). -/
def execCmdWriteRom (s : State) : Host.Outcome State Fault Refusal :=
  .next (exchange (trWord .writeByte Config.cmdWriteRom) (fun _ => done) s)

end Sys2Proof.Machine
end

