-- ==== Sys2Proof/Machine/Dispatch.lean ====
section
/-! DEFINITION. One arm for each row of spec/opcode_table.json. -/

namespace Sys2Proof.Machine

def exec (i : Instr) (s : State) : Host.Outcome State Fault Refusal :=
  match i with
  | .pollC select payload => Sys2Proof.Machine.execPollC select payload s
  | .pollR payload => Sys2Proof.Machine.execPollR payload s
  | .pollW payload => Sys2Proof.Machine.execPollW payload s
  | .load select cancel payload => Sys2Proof.Machine.execLoad select cancel payload s
  | .readId => Sys2Proof.Machine.execReadId s
  | .writeId => Sys2Proof.Machine.execWriteId s
  | .reset => Sys2Proof.Machine.execReset s
  | .skipRom => Sys2Proof.Machine.execSkipRom s
  | .writeByte arg => Sys2Proof.Machine.execWriteByte arg s
  | .writeBit v => Sys2Proof.Machine.execWriteBit v s
  | .readBytes count => Sys2Proof.Machine.execReadBytes count s
  | .delay ms => Sys2Proof.Machine.execDelay ms s
  | .resetWord => Sys2Proof.Machine.execResetWord s
  | .skipRomWord => Sys2Proof.Machine.execSkipRomWord s
  | .wbReadRom => Sys2Proof.Machine.execWbReadRom s
  | .wbWriteMode => Sys2Proof.Machine.execWbWriteMode s
  | .wbWriteRom => Sys2Proof.Machine.execWbWriteRom s
  | .wbit0 => Sys2Proof.Machine.execWbit0 s
  | .wbit1 => Sys2Proof.Machine.execWbit1 s
  | .rb8 => Sys2Proof.Machine.execRb8 s
  | .dly20 => Sys2Proof.Machine.execDly20 s
  | .dly25 => Sys2Proof.Machine.execDly25 s
  | .cmdReadRom => Sys2Proof.Machine.execCmdReadRom s
  | .cmdWriteMode => Sys2Proof.Machine.execCmdWriteMode s
  | .cmdWriteRom => Sys2Proof.Machine.execCmdWriteRom s
  | .rptWaiting => Sys2Proof.Machine.execRptWaiting s
  | .rptIdentifier data => Sys2Proof.Machine.execRptIdentifier data s
  | .rptWriteProgress => Sys2Proof.Machine.execRptWriteProgress s
  | .rptWriteComplete => Sys2Proof.Machine.execRptWriteComplete s
  | .cplNone => Sys2Proof.Machine.execCplNone s
  | .cplNoDevice => Sys2Proof.Machine.execCplNoDevice s
  | .cplReadDone => Sys2Proof.Machine.execCplReadDone s
  | .cplWriteDone => Sys2Proof.Machine.execCplWriteDone s
  | .cplUserCancel => Sys2Proof.Machine.execCplUserCancel s
  | .cplLoaded => Sys2Proof.Machine.execCplLoaded s
  | .uIdle => Sys2Proof.Machine.execUIdle s
  | .uPRst => Sys2Proof.Machine.execUPRst s
  | .uPNodev => Sys2Proof.Machine.execUPNodev s
  | .uRCmd => Sys2Proof.Machine.execURCmd s
  | .uRReq => Sys2Proof.Machine.execURReq s
  | .uRData => Sys2Proof.Machine.execURData s
  | .uRRpt => Sys2Proof.Machine.execURRpt s
  | .uWProg => Sys2Proof.Machine.execUWProg s
  | .uWRst1 => Sys2Proof.Machine.execUWRst1 s
  | .uWSkip => Sys2Proof.Machine.execUWSkip s
  | .uWSettle => Sys2Proof.Machine.execUWSettle s
  | .uWEnter => Sys2Proof.Machine.execUWEnter s
  | .uWRst2 => Sys2Proof.Machine.execUWRst2 s
  | .uWCmd => Sys2Proof.Machine.execUWCmd s
  | .uWBdly => Sys2Proof.Machine.execUWBdly s
  | .uWBit => Sys2Proof.Machine.execUWBit s
  | .uWRst3 => Sys2Proof.Machine.execUWRst3 s
  | .uWExit => Sys2Proof.Machine.execUWExit s
  | .uWRst4 => Sys2Proof.Machine.execUWRst4 s
  | .uWDone => Sys2Proof.Machine.execUWDone s

end Sys2Proof.Machine
end

