-- ==== Sys2Proof/Machine/Fetch.lean ====
section
/-! DEFINITION. Which instruction the next step runs. The engine has no instruction memory: `UPC` selects a line of
the fixed micro-program (spec/20_memory.md R50, spec/30_encoding.md R82), and at `UPC = 0` the host's command word is
the instruction (R151). `placeInstr` sets up a state whose next step runs a given row (log entry 10). -/

namespace Sys2Proof.Machine

/-- The row of a micro-step. -/
def instrAt : MicroStep → Instr
  | .idle => .uIdle
  | .pRst => .uPRst
  | .pNodev => .uPNodev
  | .rCmd => .uRCmd
  | .rReq => .uRReq
  | .rData => .uRData
  | .rRpt => .uRRpt
  | .wProg => .uWProg
  | .wRst1 => .uWRst1
  | .wSkip => .uWSkip
  | .wSettle => .uWSettle
  | .wEnter => .uWEnter
  | .wRst2 => .uWRst2
  | .wCmd => .uWCmd
  | .wBdly => .uWBdly
  | .wBit => .uWBit
  | .wRst3 => .uWRst3
  | .wExit => .uWExit
  | .wRst4 => .uWRst4
  | .wDone => .uWDone

/-- The column "`ST` here" of the micro-program (R82). -/
def protoAt : MicroStep → Proto
  | .idle | .pRst | .pNodev => .idle
  | .rCmd | .rReq | .rData | .rRpt => .reading
  | .wProg | .wRst1 | .wSkip | .wSettle | .wEnter | .wRst2 | .wCmd => .writing
  | .wBdly | .wBit | .wRst3 | .wExit | .wRst4 | .wDone => .writing

/-- The instruction the next step runs: at `UPC = 0` the host command on the command channel, if there is one; else
the micro-step at `UPC`. -/
def fetch (s : State) : Instr :=
  match s.upc, s.cmds with
  | .idle, w :: _ => decodeHc w
  | u, _ => instrAt u

/-- The engine stands at micro-step `u` with its `ST`, reset released. The other side is willing: where no answer or
no acknowledgement is offered, one is (a response word with the presence bit set), and where a beat is waited for and
none is owed, one is. -/
def placeAt (u : MicroStep) (s : State) : State :=
  { s with
    upc := u
    st := protoAt u
    rst := []
    replies := if s.replies.isEmpty then [⟨1#8, []⟩] else s.replies
    owed := if u = .rData ∧ s.owed.isEmpty then [1#8] else s.owed
    acks := if s.acks = 0 then 1 else s.acks }

/-- The engine is ready and the host offers the word. -/
def placeCommand (w : HcWord) (s : State) : State :=
  { s with upc := .idle, st := .idle, rst := [], cmds := w :: s.cmds }

/-- The engine stands at `U_W_BIT` about to send `v` for bit 0 of byte 0. -/
def placeBit (v : Bool) (s : State) : State :=
  placeAt .wBit { s with byte := 0#3, bit := 0#3, idBuf := idSet s.idBuf 0#3 (if v then 0#8 else 1#8) }

/-- Set up `s` so that the next step runs row `i`: a host command is offered on the command channel; a micro-step is
selected by `UPC`; a routine is selected by its entry; a message is placed at the micro-step whose message it is.
A request no micro-step issues changes nothing (R79). -/
def placeInstr (i : Instr) (s : State) : State :=
  match i with
  | .pollC select payload => placeCommand (hcWord false select true payload) s
  | .pollR payload => placeCommand (hcWord false false false payload) s
  | .pollW payload => placeCommand (hcWord false true false payload) s
  | .load select cancel payload => placeCommand (hcWord true select cancel payload) s
  | .readId => placeAt .rCmd s
  | .writeId => placeAt .wProg s
  | .reset | .resetWord => placeAt .wRst1 s
  | .skipRom | .skipRomWord => placeAt .wSkip s
  | .writeByte arg =>
    if arg = Config.cmdReadRom then placeAt .rCmd s
    else if arg = Config.cmdWriteMode then placeAt .wEnter s
    else if arg = Config.cmdWriteRom then placeAt .wCmd s
    else s
  | .wbReadRom | .cmdReadRom => placeAt .rCmd s
  | .wbWriteMode | .cmdWriteMode => placeAt .wEnter s
  | .wbWriteRom | .cmdWriteRom => placeAt .wCmd s
  | .writeBit v => placeBit v s
  | .wbit0 => placeBit false s
  | .wbit1 => placeBit true s
  | .readBytes count => if count = Config.readCount then placeAt .rReq s else s
  | .rb8 => placeAt .rReq s
  | .delay ms =>
    if ms = Config.tSettleMs then placeAt .wSettle s
    else if ms = Config.tBitMs then placeAt .wBdly s
    else s
  | .dly20 => placeAt .wSettle s
  | .dly25 => placeAt .wBdly s
  | .rptWaiting => placeAt .pNodev s
  | .rptIdentifier data => placeAt .rRpt { s with idBuf := idOfValue data }
  | .rptWriteProgress => placeAt .wProg s
  | .rptWriteComplete => placeAt .wDone s
  | .cplNone => { s with rst := [true] }
  | .cplNoDevice => placeAt .pNodev s
  | .cplReadDone => placeAt .rRpt s
  | .cplWriteDone => placeAt .wDone s
  | .cplUserCancel => placeCommand (hcWord false false true 0#64) s
  | .cplLoaded => placeCommand (hcWord true false false (idValue s.idBuf)) s
  | .uIdle => placeAt .idle s
  | .uPRst => placeAt .pRst s
  | .uPNodev => placeAt .pNodev s
  | .uRCmd => placeAt .rCmd s
  | .uRReq => placeAt .rReq s
  | .uRData => placeAt .rData s
  | .uRRpt => placeAt .rRpt s
  | .uWProg => placeAt .wProg s
  | .uWRst1 => placeAt .wRst1 s
  | .uWSkip => placeAt .wSkip s
  | .uWSettle => placeAt .wSettle s
  | .uWEnter => placeAt .wEnter s
  | .uWRst2 => placeAt .wRst2 s
  | .uWCmd => placeAt .wCmd s
  | .uWBdly => placeAt .wBdly s
  | .uWBit => placeAt .wBit s
  | .uWRst3 => placeAt .wRst3 s
  | .uWExit => placeAt .wExit s
  | .uWRst4 => placeAt .wRst4 s
  | .uWDone => placeAt .wDone s

end Sys2Proof.Machine
end

