-- ==== Sys2Proof/Machine/Outputs.lean ====
section
/-! DEFINITION. What the engine shows: the continuous status outputs (spec/10_state.md R29, spec/30_encoding.md R70,
R83) and the message it offers at its `UPC`, the word on the transport request or the report channel while the
engine waits for the other side. -/

namespace Sys2Proof.Machine

/-- The encoding of `ST` (R22). -/
def Proto.code : Proto → BitVec 2
  | .idle => 0b00#2
  | .reading => 0b01#2
  | .writing => 0b10#2

/-- `st_out[1:0]` (R22). -/
def stOut (s : State) : BitVec 2 := s.st.code

/-- `res_out[2:0]` (R26). -/
def resOut (s : State) : CpWord := s.res.code

/-- `id_out[63:0]` (R21, R52). -/
def idOut (s : State) : BitVec 64 := idValue s.idBuf

/-- `treq_word[10:0]`: the request word the engine offers, if the micro-step at `UPC` makes an exchange (R82, R83). -/
def treqWord (s : State) : Option TrWord :=
  match s.upc with
  | .idle => none
  | .pRst => some (trWord .reset 0#8)
  | .pNodev => none
  | .rCmd => some (trWord .writeByte Config.cmdReadRom)
  | .rReq => some (trWord .readBytes Config.readCount)
  | .rData => none
  | .rRpt => none
  | .wProg => none
  | .wRst1 => some (trWord .reset 0#8)
  | .wSkip => some (trWord .skipRom 0#8)
  | .wSettle => some (trWord .delay Config.tSettleMs)
  | .wEnter => some (trWord .writeByte Config.cmdWriteMode)
  | .wRst2 => some (trWord .reset 0#8)
  | .wCmd => some (trWord .writeByte Config.cmdWriteRom)
  | .wBdly => some (trWord .delay Config.tBitMs)
  | .wBit => some (trWord .writeBit (bitArg (payloadBit s.idBuf s.byte s.bit)))
  | .wRst3 => some (trWord .reset 0#8)
  | .wExit => some (trWord .writeByte Config.cmdWriteMode)
  | .wRst4 => some (trWord .reset 0#8)
  | .wDone => none

/-- Whether the engine waits for a data beat (R82, `U_R_DATA`). -/
def wantsBeat (s : State) : Bool := s.upc == .rData

/-- `rpt_word[65:0]`: the report word the engine offers, if the micro-step at `UPC` reports (R82, R83, R159). -/
def rptWord (s : State) : Option RpWord :=
  match s.upc with
  | .pNodev => some (rpWord .waiting 0#64)
  | .rRpt => some (identifierReport s.idBuf)
  | .wProg => some (rpWord .writeProgress 0#64)
  | .wDone => some (rpWord .writeComplete 0#64)
  | .idle | .pRst | .rCmd | .rReq | .rData => none
  | .wRst1 | .wSkip | .wSettle | .wEnter | .wRst2 | .wCmd => none
  | .wBdly | .wBit | .wRst3 | .wExit | .wRst4 => none

end Sys2Proof.Machine
end

