-- ==== Sys2Proof/Machine/Step.lean ====
section
/-! DEFINITION. One step of the engine: while `rst` is asserted all state takes its reset values and no message is
exchanged (spec/70_reset_and_hazards.md R200); else the fetched instruction runs. -/

namespace Sys2Proof.Machine

/-- One step. -/
def step (s : State) : Host.Outcome State Fault Refusal :=
  if s.rstNow then .next (resetEngine s.tick) else exec (fetch s.tick) s.tick

/-- `s` with the instruction of that table word set up as the next to run (log entry 10). -/
def State.withFetchWord (s : State) (nbits w : Nat) : State :=
  match decodeTableWord nbits w with
  | some i => placeInstr i s
  | none => s

end Sys2Proof.Machine
end

