-- ==== Sys2Proof/Machine/Fixture.lean ====
section
/-! DEFINITION. The reference device fixture of spec/95_test_vectors.md section 4. It is the spec's own construction and
NOT part of the hardware (D23): a result proved against it is a result about the fixture. Nothing of the engine
depends on this file. Log entry 11. -/

namespace Sys2Proof.Machine

/-- The fixture's `MODE`. -/
inductive DeviceMode where
  | waitReset
  | waitCmd
  | readOut
  | writeIn
  | ignore
  deriving DecidableEq, Repr

/-- The fixture's state: an ideal RW1990-like device with its Bus Transport. -/
structure Device where
  /-- `ROM[0..7]` -/
  rom : IdBuf
  /-- `WE`, write-enabled -/
  we : Bool
  /-- `PEND`, a `0xD1` command has been received since the last reset -/
  pend : Bool
  /-- `MODE` -/
  mode : DeviceMode
  /-- `CNT`, 0 to 64 -/
  cnt : Nat
  /-- the device is on the reader -/
  present : Bool
  deriving DecidableEq, Repr

/-- The fixture as a test finds it: `WE = 0`, `PEND = 0`, `MODE = WAIT_RESET`, `CNT = 0`, `ROM` as the test says. -/
def Device.initial (rom : IdBuf) (present : Bool) : Device :=
  { rom := rom, we := false, pend := false, mode := .waitReset, cnt := 0, present := present }

/-- Row `RESET`. -/
def Device.onReset (d : Device) : Device :=
  if d.present then
    { d with we := if d.pend then !d.we else d.we, pend := false, mode := .waitCmd, cnt := 0 }
  else d

/-- Row `WRITEBYTE b`. -/
def Device.onWriteByte (b : Byte) (d : Device) : Device :=
  if d.present && d.mode == .waitCmd then
    if b = 0x33#8 then { d with mode := .readOut }
    else if b = 0xD1#8 then { d with pend := true, mode := .ignore }
    else if b = 0xD5#8 then { d with mode := if d.we then .writeIn else .ignore, cnt := 0 }
    else { d with mode := .ignore }
  else d

/-- A byte with bit `j` replaced. -/
def putBit (x : Byte) (j : Nat) (b : Bool) : Byte :=
  if b then x ||| (1#8 <<< j) else x &&& ~~~(1#8 <<< j)

/-- Row `WRITEBIT v`: the cell takes the complement of the wire value. -/
def Device.onWriteBit (v : Bool) (d : Device) : Device :=
  if d.present && d.mode == .writeIn && decide (d.cnt < 64) then
    let k := BitVec.ofNat 3 (d.cnt / 8)
    { d with rom := idSet d.rom k (putBit (idGet d.rom k) (d.cnt % 8) (!v)), cnt := d.cnt + 1 }
  else d

/-- Row `READBYTES 8`: the state after it. -/
def Device.onReadBytes (d : Device) : Device :=
  if d.present && d.mode == .readOut then { d with mode := .ignore } else d

/-- Row `READBYTES 8`: the eight beats. -/
def Device.beats (d : Device) : List Byte :=
  if d.present && d.mode == .readOut then d.rom.toList else List.replicate 8 0xFF#8

/-- The fixture's action on a request word. -/
def Device.act (w : TrWord) (d : Device) : Device :=
  match (trReq w).toNat with
  | 0 => d.onReset
  | 2 => d.onWriteByte (trArg w)
  | 3 => d.onWriteBit ((trArg w).getLsbD 0)
  | 4 => d.onReadBytes
  | _ => d

/-- The fixture's answer to a request word: the response word, and after a `READBYTES` its beats. A response that
carries nothing is the zero word. -/
def Device.answer (w : TrWord) (d : Device) : Reply :=
  match (trReq w).toNat with
  | 0 => ⟨if d.present then 1#8 else 0#8, []⟩
  | 4 => ⟨0#8, d.beats⟩
  | _ => ⟨0#8, []⟩

/-- The engine and the fixture on one bench, with a UI collaborator that takes every report. -/
structure Bench where
  engine : State
  device : Device
  deriving DecidableEq, Repr

/-- The bench answers what the engine offers: the fixture acts on the request and answers it; the UI collaborator
takes the report. What a Bus Transport does with a request or with beats that `rst` cuts off is open (U12); the bench's
serves a request only in the step that completes it, so `rst` never cuts one off half way, and it drops the beats still
owed when `rst` comes: they answer nothing later, and the device stays as the `READBYTES` left it. DESIGN CHOICE, log
entry 11. -/
def Bench.feed (b : Bench) : Bench :=
  match treqWord b.engine, b.engine.replies with
  | some w, [] => { engine := { b.engine with replies := [b.device.answer w] }, device := b.device.act w }
  | _, _ =>
    match rptWord b.engine with
    | some _ => { b with engine := { b.engine with acks := b.engine.acks + 1 } }
    | none => b

/-- One step of the bench. While `rst` is asserted the engine offers nothing. -/
def Bench.step (b : Bench) : Host.Outcome Bench Fault Refusal :=
  let c := if b.engine.rstNow then b else b.feed
  match Machine.step c.engine with
  | .next s => .next { c with engine := s }
  | .fault r => .fault r
  | .refused r => .refused r

/-- `n` steps of the bench. -/
def Bench.run : Nat → Bench → Host.Outcome Bench Fault Refusal
  | 0, b => .next b
  | n + 1, b =>
    match b.step with
    | .next c => Bench.run n c
    | .fault r => .fault r
    | .refused r => .refused r

end Sys2Proof.Machine
end

