-- ==== Sys2Proof/Safety.lean ====
section
/-! DEFINITION. What counts as a safe state and a safe trace: the invariants of spec/10_state.md R33, the messages the
engine may send (spec/30_encoding.md R72, R74, R75, R79), the Bus Session invariant of spec/20_memory.md R62, and the
exact sequences of spec/42_write_identifier.md R147 and spec/41_read_identifier.md R127. -/

namespace Sys2Proof.Machine

/-! ## The state -/

/-- The invariants of R33, clause by clause, on the encoded registers. -/
structure Inv (s : State) : Prop where
  idle_iff : s.st = .idle ↔ s.upc.code ∈ [0#5, 1#5, 2#5]
  reading_iff : s.st = .reading ↔ 3#5 ≤ s.upc.code ∧ s.upc.code ≤ 6#5
  writing_iff : s.st = .writing ↔ 7#5 ≤ s.upc.code ∧ s.upc.code ≤ 19#5
  upc_le : s.upc.code ≤ 19#5
  st_ne : stOut s ≠ 0b11#2
  res_le : resOut s ≤ 5#3

/-! ## The messages -/

/-- The 10 request words the engine can issue (R72). -/
def issuedWords : List TrWord :=
  [0x000#11, 0x100#11, 0x233#11, 0x2D1#11, 0x2D5#11, 0x300#11, 0x301#11, 0x408#11, 0x514#11, 0x519#11]

/-- A message the engine may exchange: a request of R72; a report whose data is zero unless it is `IDENTIFIER` (R74);
a completion code 1 to 5 (R75, R79). Every command word and every beat is legal (R79). -/
def Event.legal : Event → Prop
  | .command _ => True
  | .exchange req _ => req ∈ issuedWords
  | .beat _ => True
  | .report rp => rpRpt rp = Report.identifier.code ∨ rpData rp = 0#64
  | .completion cp => 1#3 ≤ cp ∧ cp ≤ 5#3

/-- Every message so far is legal. -/
def TraceLegal (s : State) : Prop := ∀ e ∈ s.trace, e.legal

/-! ## The Bus Session (R62) -/

/-- Where a command stands in its Bus Session, as far as its bus requests tell. -/
inductive Session where
  /-- a host command has just been taken; no bus request since -/
  | fresh
  /-- the last bus request was a `RESET` -/
  | opened
  /-- `RESET`, then `WRITEBYTE(0x33)` -/
  | readCommand
  /-- `READBYTES(8)` directly after them, and its beats -/
  | reading
  /-- `RESET`, then `WRITEBYTE(0xD5)` -/
  | writeCommand
  /-- the `WRITEBIT` requests directly after them -/
  | writing
  /-- any other last bus request -/
  | other
  deriving DecidableEq, Repr

/-- One message's effect on the session; `none` where a data phase is not preceded as R62 asks. A `DELAY` and a report
are not bus requests (R62); a command taken starts afresh, so that the reset counted is one of the same command. -/
def Session.next (q : Session) : Event → Option Session
  | .command _ => some .fresh
  | .exchange w _ =>
    if trReq w = TrReq.delay.code then some q
    else if trReq w = TrReq.reset.code then some .opened
    else if w = 0x233#11 then some (if q = .opened then .readCommand else .other)
    else if w = 0x2D5#11 then some (if q = .opened then .writeCommand else .other)
    else if trReq w = TrReq.readBytes.code then if q = .readCommand then some .reading else none
    else if trReq w = TrReq.writeBit.code then if q = .writeCommand ∨ q = .writing then some .writing else none
    else some .other
  | .beat _ => if q = .reading then some .reading else none
  | .report _ => some q
  | .completion _ => some q

/-- The session after a trace, if every data phase of the trace is preceded as R62 asks. -/
def sessionAfter : Session → List Event → Option Session
  | q, [] => some q
  | q, e :: es =>
    match q.next e with
    | some q' => sessionAfter q' es
    | none => none

/-- The trace has the Bus Session property (R62). -/
def BusSessionOk (s : State) : Prop := (sessionAfter .fresh s.trace).isSome

/-- Which sessions the engine may be in at each micro-step. -/
def sessionFits : MicroStep → Session → Bool
  | .rCmd, q => q == .opened
  | .rReq, q => q == .readCommand
  | .rData, q => q == .reading
  | .wCmd, q => q == .opened
  | .wBdly, q => q == .writeCommand || q == .writing
  | .wBit, q => q == .writeCommand || q == .writing
  | _, _ => true

/-- The Bus Session invariant in a form every step keeps: the trace has the property, and what was sent last fits the
micro-step that comes next. -/
def SessionInv (s : State) : Prop :=
  ∃ q, sessionAfter .fresh s.trace = some q ∧ sessionFits s.upc q = true

/-- A safe state: R33, only legal messages, every data phase in its Bus Session. -/
def Safe (s : State) : Prop := Inv s ∧ TraceLegal s ∧ SessionInv s

/-- The states the machine can come to from `s`. -/
inductive Reaches (s : State) : State → Prop where
  | refl : Reaches s s
  | tail {t u : State} : Reaches s t → step t = .next u → Reaches s u

/-- No beat is owed beyond those the Bus Transport's contract gives (R101, D20): none outside `U_R_DATA`, and there no more
than are left of the eight. -/
def OwedWithinContract (s : State) : Prop :=
  s.owed.length ≤ if s.upc = .rData then 8 - s.byte.toNat else 0

/-! ## The exact sequences -/

/-- The `WRITEBIT` word of the `n`-th payload bit: `0x300 | (1 - P[n div 8][n mod 8])` (R147). -/
def bitWord (p : IdBuf) (n : Nat) : TrWord :=
  if (idGet p (BitVec.ofNat 3 (n / 8))).getLsbD (n % 8) then 0x300#11 else 0x301#11

/-- The 137 request words of `WRITE_ID` for the payload `p` (R147). -/
def writeIdWords (p : IdBuf) : List TrWord :=
  [0x000#11, 0x100#11, 0x514#11, 0x2D1#11, 0x000#11, 0x2D5#11] ++
  (List.range 64).flatMap (fun n => [0x519#11, bitWord p n]) ++
  [0x000#11, 0x2D1#11, 0x000#11]

/-- Requests with their responses, in order. -/
def exchanges (ws : List TrWord) (rs : List TsWord) : List Event := List.zipWith Event.exchange ws rs

/-- The messages of `WRITE_ID` for the payload `p`, answered by `rs` (R130, R147). -/
def writeIdTrace (p : IdBuf) (rs : List TsWord) : List Event :=
  [.report 2#66] ++ exchanges (writeIdWords p) rs ++ [.report 3#66, .completion 3#3]

/-- The messages of `READ_ID` when the command and the request are answered by `r0` and `r1` and the beats are `ds`
(R127). -/
def readIdTrace (r0 r1 : TsWord) (ds : IdBuf) : List Event :=
  [.exchange 0x233#11 r0, .exchange 0x408#11 r1] ++ ds.toList.map Event.beat ++
  [.report (rpWord .identifier (idValue ds)), .completion 2#3]

/-- The request words of a list of messages, in order. -/
def requestWords : List Event → List TrWord
  | [] => []
  | .exchange w _ :: es => w :: requestWords es
  | .command _ :: es => requestWords es
  | .beat _ :: es => requestWords es
  | .report _ :: es => requestWords es
  | .completion _ :: es => requestWords es

/-- How many beats a list of messages takes. -/
def beatCount : List Event → Nat
  | [] => 0
  | .beat _ :: es => beatCount es + 1
  | .command _ :: es => beatCount es
  | .exchange _ _ :: es => beatCount es
  | .report _ :: es => beatCount es
  | .completion _ :: es => beatCount es

/-! ## Which instructions write which register (the "State written" lines of R102 to R158) -/

/-- Writers of `ID`: `LOAD` (and so `U_IDLE`, which takes it), the beats, `READ_ID`, reset (R21, R34). -/
def writesId : Instr → Bool
  | .load _ _ _ => true
  | .readId => true
  | .cplNone => true
  | .uIdle | .uRData => true
  | .pollC _ _ | .pollR _ | .pollW _ => false
  | .writeId => false
  | .reset | .skipRom | .writeByte _ | .writeBit _ | .readBytes _ | .delay _ => false
  | .resetWord | .skipRomWord | .wbReadRom | .wbWriteMode | .wbWriteRom => false
  | .wbit0 | .wbit1 | .rb8 | .dly20 | .dly25 => false
  | .cmdReadRom | .cmdWriteMode | .cmdWriteRom => false
  | .rptWaiting | .rptIdentifier _ | .rptWriteProgress | .rptWriteComplete => false
  | .cplNoDevice | .cplReadDone | .cplWriteDone | .cplUserCancel | .cplLoaded => false
  | .uPRst | .uPNodev | .uRCmd | .uRReq | .uRRpt => false
  | .uWProg | .uWRst1 | .uWSkip | .uWSettle | .uWEnter | .uWRst2 | .uWCmd => false
  | .uWBdly | .uWBit | .uWRst3 | .uWExit | .uWRst4 | .uWDone => false

/-- Writers of `SEL`: a `POLL` that is not cancelled (and so `U_IDLE`), reset (R25, R152). -/
def writesSel : Instr → Bool
  | .pollR _ | .pollW _ => true
  | .cplNone => true
  | .uIdle => true
  | .pollC _ _ | .load _ _ _ => false
  | .readId | .writeId => false
  | .reset | .skipRom | .writeByte _ | .writeBit _ | .readBytes _ | .delay _ => false
  | .resetWord | .skipRomWord | .wbReadRom | .wbWriteMode | .wbWriteRom => false
  | .wbit0 | .wbit1 | .rb8 | .dly20 | .dly25 => false
  | .cmdReadRom | .cmdWriteMode | .cmdWriteRom => false
  | .rptWaiting | .rptIdentifier _ | .rptWriteProgress | .rptWriteComplete => false
  | .cplNoDevice | .cplReadDone | .cplWriteDone | .cplUserCancel | .cplLoaded => false
  | .uPRst | .uPNodev | .uRCmd | .uRReq | .uRData | .uRRpt => false
  | .uWProg | .uWRst1 | .uWSkip | .uWSettle | .uWEnter | .uWRst2 | .uWCmd => false
  | .uWBdly | .uWBit | .uWRst3 | .uWExit | .uWRst4 | .uWDone => false

/-- Writers of `BYTE`: the two loops, the steps that enter them, the routines, reset (R24, R122, R123, R137, R140). -/
def writesByte : Instr → Bool
  | .readId | .writeId => true
  | .cplNone => true
  | .uRReq | .uRData => true
  | .uWCmd => true
  | .uWBit => true
  | .pollC _ _ | .pollR _ | .pollW _ | .load _ _ _ => false
  | .reset | .skipRom | .writeByte _ | .writeBit _ | .readBytes _ | .delay _ => false
  | .resetWord | .skipRomWord | .wbReadRom | .wbWriteMode | .wbWriteRom => false
  | .wbit0 | .wbit1 | .rb8 | .dly20 | .dly25 => false
  | .cmdReadRom | .cmdWriteMode | .cmdWriteRom => false
  | .rptWaiting | .rptIdentifier _ | .rptWriteProgress | .rptWriteComplete => false
  | .cplNoDevice | .cplReadDone | .cplWriteDone | .cplUserCancel | .cplLoaded => false
  | .uIdle | .uPRst | .uPNodev | .uRCmd | .uRRpt => false
  | .uWProg | .uWRst1 | .uWSkip | .uWSettle | .uWEnter | .uWRst2 => false
  | .uWBdly | .uWRst3 | .uWExit | .uWRst4 | .uWDone => false

/-- Writers of `BIT`: the bit loop, the step that enters it, `WRITE_ID`, reset (R24, R137, R140). -/
def writesBit : Instr → Bool
  | .writeId => true
  | .cplNone => true
  | .uWCmd => true
  | .uWBit => true
  | .pollC _ _ | .pollR _ | .pollW _ | .load _ _ _ => false
  | .readId => false
  | .reset | .skipRom | .writeByte _ | .writeBit _ | .readBytes _ | .delay _ => false
  | .resetWord | .skipRomWord | .wbReadRom | .wbWriteMode | .wbWriteRom => false
  | .wbit0 | .wbit1 | .rb8 | .dly20 | .dly25 => false
  | .cmdReadRom | .cmdWriteMode | .cmdWriteRom => false
  | .rptWaiting | .rptIdentifier _ | .rptWriteProgress | .rptWriteComplete => false
  | .cplNoDevice | .cplReadDone | .cplWriteDone | .cplUserCancel | .cplLoaded => false
  | .uIdle | .uPRst | .uPNodev | .uRCmd | .uRReq | .uRData | .uRRpt => false
  | .uWProg | .uWRst1 | .uWSkip | .uWSettle | .uWEnter | .uWRst2 => false
  | .uWBdly | .uWRst3 | .uWExit | .uWRst4 | .uWDone => false

/-- Writers of `RES`: whatever completes a command, and reset (R26). -/
def writesRes : Instr → Bool
  | .pollC _ _ | .load _ _ _ => true
  | .readId | .writeId => true
  | .cplNone | .cplNoDevice | .cplReadDone | .cplWriteDone | .cplUserCancel | .cplLoaded => true
  | .uIdle | .uPNodev | .uRRpt => true
  | .uWDone => true
  | .pollR _ | .pollW _ => false
  | .reset | .skipRom | .writeByte _ | .writeBit _ | .readBytes _ | .delay _ => false
  | .resetWord | .skipRomWord | .wbReadRom | .wbWriteMode | .wbWriteRom => false
  | .wbit0 | .wbit1 | .rb8 | .dly20 | .dly25 => false
  | .cmdReadRom | .cmdWriteMode | .cmdWriteRom => false
  | .rptWaiting | .rptIdentifier _ | .rptWriteProgress | .rptWriteComplete => false
  | .uPRst | .uRCmd | .uRReq | .uRData => false
  | .uWProg | .uWRst1 | .uWSkip | .uWSettle | .uWEnter | .uWRst2 | .uWCmd => false
  | .uWBdly | .uWBit | .uWRst3 | .uWExit | .uWRst4 => false

/-- Writers of `ST`: the dispatch, whatever completes a command, and reset (R22). -/
def writesSt : Instr → Bool
  | .pollC _ _ | .load _ _ _ => true
  | .readId | .writeId => true
  | .cplNone | .cplNoDevice | .cplReadDone | .cplWriteDone | .cplUserCancel | .cplLoaded => true
  | .uIdle | .uPRst | .uPNodev | .uRRpt => true
  | .uWDone => true
  | .pollR _ | .pollW _ => false
  | .reset | .skipRom | .writeByte _ | .writeBit _ | .readBytes _ | .delay _ => false
  | .resetWord | .skipRomWord | .wbReadRom | .wbWriteMode | .wbWriteRom => false
  | .wbit0 | .wbit1 | .rb8 | .dly20 | .dly25 => false
  | .cmdReadRom | .cmdWriteMode | .cmdWriteRom => false
  | .rptWaiting | .rptIdentifier _ | .rptWriteProgress | .rptWriteComplete => false
  | .uRCmd | .uRReq | .uRData => false
  | .uWProg | .uWRst1 | .uWSkip | .uWSettle | .uWEnter | .uWRst2 | .uWCmd => false
  | .uWBdly | .uWBit | .uWRst3 | .uWExit | .uWRst4 => false

/-- The instructions that accept a `READBYTES`, after which beats are owed (R73, R106). -/
def acceptsBeats : Instr → Bool
  | .readId | .readBytes _ | .rb8 | .uRReq => true
  | .pollC _ _ | .pollR _ | .pollW _ | .load _ _ _ => false
  | .writeId => false
  | .reset | .skipRom | .writeByte _ | .writeBit _ | .delay _ => false
  | .resetWord | .skipRomWord | .wbReadRom | .wbWriteMode | .wbWriteRom => false
  | .wbit0 | .wbit1 | .dly20 | .dly25 => false
  | .cmdReadRom | .cmdWriteMode | .cmdWriteRom => false
  | .rptWaiting | .rptIdentifier _ | .rptWriteProgress | .rptWriteComplete => false
  | .cplNone | .cplNoDevice | .cplReadDone | .cplWriteDone | .cplUserCancel | .cplLoaded => false
  | .uIdle | .uPRst | .uPNodev | .uRCmd | .uRData | .uRRpt => false
  | .uWProg | .uWRst1 | .uWSkip | .uWSettle | .uWEnter | .uWRst2 | .uWCmd => false
  | .uWBdly | .uWBit | .uWRst3 | .uWExit | .uWRst4 | .uWDone => false

end Sys2Proof.Machine
end

