-- ==== Sys2Proof/Certificates/Slice0/Obligations.lean ====
section
/-! DEFINITION. The statements for the provers. A statement "the instruction answers `.next` of the state with these
fields changed" is at once the instruction's result, its completion and its frame: every field not named is as before,
every byte of the identifier buffer (the whole memory, R50) among them. The channel fields (`cmds`, `replies`, `owed`,
`acks`) and `trace` are the model's (log entries 2, 5, 6). -/

open Sys2Proof Sys2Proof.Machine

/-! ## Encoding -/

/-- Words written out bit by bit from the spec's formats decode to what they stand for (R71 to R76, R82; vectors 2.1,
2.2, 2.4, 2.5). -/
def Obligations.WordsDecodeAsWritten : Prop :=
  decodeWord .hc 0b000 = .instr (.pollR 0#64) ∧
  decodeWord .hc 0b010 = .instr (.pollW 0#64) ∧
  decodeWord .hc 0b110 = .instr (.pollC true 0#64) ∧
  decodeWord .hc 0x77E6D5C4B3A291809 = .instr (.load false false 0xEFCDAB8967452301#64) ∧
  decodeWord .hc 0x77E6D5C4B3A29180F = .instr (.load true true 0xEFCDAB8967452301#64) ∧
  decodeWord .tr 0b01011010001 = .instr (.writeByte 0xD1#8) ∧
  decodeWord .tr 0b01100000001 = .instr (.writeBit true) ∧
  decodeWord .trIssued 0b10000001000 = .instr .rb8 ∧
  decodeWord .wc 0b00110011 = .instr .cmdReadRom ∧
  decodeWord .rp 0x3BF36AE259D148C05 = .instr (.rptIdentifier 0xEFCDAB8967452301#64) ∧
  decodeWord .cp 0b100 = .instr .cplUserCancel ∧
  decodeWord .upc 0b01111 = .instr .uWBit ∧
  decodeWord .routine 0b00111 = .instr .writeId

/-- The decode of a host command word looks at three bits, and every word has exactly one form (R78). -/
def Obligations.HostCommandForms : Prop :=
  ∀ w : HcWord,
    (w.getLsbD 0 = true → decodeHc w = .load (w.getLsbD 1) (w.getLsbD 2) (w.extractLsb' 3 64)) ∧
    (w.getLsbD 0 = false → w.getLsbD 2 = true → decodeHc w = .pollC (w.getLsbD 1) (w.extractLsb' 3 64)) ∧
    (w.getLsbD 0 = false → w.getLsbD 2 = false → w.getLsbD 1 = false → decodeHc w = .pollR (w.extractLsb' 3 64)) ∧
    (w.getLsbD 0 = false → w.getLsbD 2 = false → w.getLsbD 1 = true → decodeHc w = .pollW (w.extractLsb' 3 64)) ∧
    encode (decodeHc w) = w.toNat

/-- Decoding the encoding of an instruction gives it back, with every operand at every value, as a word of its format
(R71 to R76, R82) and as bytes. That a message is laid out in bytes least significant byte first is the model's choice,
log entry 4: the spec carries messages whole and gives no byte order for them. -/
def Obligations.DecodeOfEncode : Prop :=
  ∀ i : Instr,
    decodeWord i.format (encode i) = .instr i ∧ decodeBytes i.format (encodeBytes i) = .instr i

/-- A word that decodes is the encoding of the instruction it decodes to, in the format it was read in: no two words
of a format mean the same instruction. -/
def Obligations.EncodeOfDecode : Prop :=
  ∀ (f : Format) (w : Nat) (i : Instr), decodeWord f w = .instr i → i.format = f ∧ encode i = w

/-- The encodings rule R79 lists as never used are rejected by name, and the host command space has none. -/
def Obligations.ReservedEncodingsRejected : Prop :=
  (∀ w : TrWord, 6#3 ≤ trReq w → decodeWord .tr w.toNat = .rejected .reservedRequest) ∧
  (∀ w : TrWord, w ∉ issuedWords → decodeWord .trIssued w.toNat = .rejected .neverIssued) ∧
  (∀ c : CpWord, 6#3 ≤ c → decodeWord .cp c.toNat = .rejected .reservedCompletion) ∧
  (∀ u : BitVec 5, 20#5 ≤ u → decodeWord .upc u.toNat = .rejected .reservedMicroStep) ∧
  (∀ b : Byte, b ≠ 0x33#8 → b ≠ 0xD1#8 → b ≠ 0xD5#8 → decodeWord .wc b.toNat = .rejected .notACommandByte) ∧
  (∀ w : HcWord, ∃ i, decodeWord .hc w.toNat = .instr i)

/-- The packing of the identifier into one value: byte `k` is bits `[8k+7 : 8k]`, read by whole bytes and by single
bits, and packing and unpacking are inverse (R52, R63). -/
def Obligations.IdentifierPacking : Prop :=
  (∀ (v : BitVec 64) (k : BitVec 3), idGet (idOfValue v) k = v.extractLsb' (8 * k.toNat) 8) ∧
  (∀ (v : BitVec 64) (k j : BitVec 3), (idGet (idOfValue v) k).getLsbD j.toNat = v.getLsbD (8 * k.toNat + j.toNat)) ∧
  (∀ (p : IdBuf) (k : BitVec 3), (idValue p).extractLsb' (8 * k.toNat) 8 = idGet p k) ∧
  (∀ v : BitVec 64, idValue (idOfValue v) = v) ∧
  (∀ p : IdBuf, idOfValue (idValue p) = p)

/-! ## Reset and the step -/

/-- The values after reset (R32): `ID` is the open parameter `ID_RESET`, byte by byte; no message is outstanding (no
request, no beat and no report is offered). The statement holds for every value of `ID_RESET`. That no beat is owed
and the trace is empty is the model's choice, log entry 2. -/
def Obligations.ValuesAfterReset : Prop :=
  State.reset.st = .idle ∧ stOut State.reset = 0b00#2 ∧
  State.reset.upc = .idle ∧ State.reset.upc.code = 0#5 ∧
  State.reset.byte = 0#3 ∧ State.reset.bit = 0#3 ∧ State.reset.sel = false ∧
  State.reset.res = .none ∧ resOut State.reset = 0#3 ∧
  (∀ k : BitVec 3, idGet State.reset.idBuf k = Config.idReset.extractLsb' (8 * k.toNat) 8) ∧
  treqWord State.reset = none ∧ wantsBeat State.reset = false ∧ rptWord State.reset = none ∧
  State.reset.owed = [] ∧ State.reset.trace = []

/-- While `rst` is asserted, from any state, one step gives every register its reset value; no command is taken and no
message goes out, and when `rst` is released the engine is ready (R200); the beats still owed are never taken (vector
2.12). That `rst` is a list of levels of which one is used up is the model's choice, log entry 6; that the offers of
the other agents and the trace stay as they are is log entries 2 and 14, and rests on D14, which says itself that it
errs toward proving. -/
def Obligations.RstTakesEffectFromAnyState : Prop :=
  ∀ (s : State) (levels : List Bool), s.rst = true :: levels →
    ∃ t, step s = .next t ∧
      t.idBuf = State.reset.idBuf ∧ t.st = .idle ∧ t.upc = .idle ∧ t.byte = 0#3 ∧ t.bit = 0#3 ∧ t.sel = false ∧
      t.res = .none ∧ ready t = true ∧
      t.rst = levels ∧ t.cmds = s.cmds ∧ t.replies = s.replies ∧ t.owed = [] ∧ t.acks = s.acks ∧
      t.trace = s.trace

/-- After reset the engine does nothing by itself (R202); that the other agents then offer nothing is the model's
choice, log entry 2. -/
def Obligations.ResetStateWaits : Prop := step State.reset = .next State.reset

/-- A step with `rst` released is the meaning of the instruction fetched: at `UPC = 0` the host command word on the
command channel as it decodes, and with none offered the micro-step `U_IDLE`; at any other `UPC` the micro-step whose
number `UPC` is. The level of `rst` for this step is used up (log entry 6). -/
def Obligations.StepRunsTheFetchedInstruction : Prop :=
  ∀ s : State, s.rstNow = false →
    (∀ (w : HcWord) (rest : List HcWord) (i : Instr), s.upc = .idle → s.cmds = w :: rest →
      decodeWord .hc w.toNat = .instr i → step s = exec i { s with rst := s.rst.tail }) ∧
    (s.upc = .idle → s.cmds = [] → step s = exec .uIdle { s with rst := s.rst.tail }) ∧
    (∀ i : Instr, s.upc ≠ .idle → decodeWord .upc s.upc.code.toNat = .instr i →
      step s = exec i { s with rst := s.rst.tail })

/-- A micro-step placed by its number is what the next step runs. The model's choice: that a one-byte table word is
read as a micro-step number before anything else is log entry 3, and what `withFetchWord` sets up is log entry 10. -/
def Obligations.PlacedMicroStepRuns : Prop :=
  ∀ u : MicroStep,
    decodeTableWord 8 u.code.toNat = some (instrAt u) ∧
    step (State.reset.withFetchWord 8 u.code.toNat) = exec (instrAt u) (State.reset.withFetchWord 8 u.code.toNat)

/-! ## Host commands -/

/-- A `POLL` taken: with `cancel` the command ends with `USER_CANCEL` and nothing else; else `SEL` takes `select` and
the presence check is next (R152, R154). -/
def Obligations.PollTaken : Prop :=
  ∀ (s : State) (payload : BitVec 64), s.upc = .idle →
    (∀ select : Bool, exec (.pollC select payload) s =
      .next { s with
        res := .userCancel, st := .idle, upc := .idle, cmds := s.cmds.tail
        trace := s.trace ++ [.command (hcWord false select true payload), .completion 4#3] }) ∧
    exec (.pollR payload) s =
      .next { s with
        sel := false, upc := .pRst, cmds := s.cmds.tail
        trace := s.trace ++ [.command (hcWord false false false payload)] } ∧
    exec (.pollW payload) s =
      .next { s with
        sel := true, upc := .pRst, cmds := s.cmds.tail
        trace := s.trace ++ [.command (hcWord false true false payload)] }

/-- A `LOAD` taken: `ID[k]` is byte `k` of the payload for every `k`, and the command ends with `LOADED`; `select` and
`cancel` change nothing (R158). -/
def Obligations.LoadTaken : Prop :=
  ∀ (s : State) (select cancel : Bool) (payload : BitVec 64), s.upc = .idle →
    exec (.load select cancel payload) s =
      .next { s with
        idBuf := idOfValue payload, res := .loaded, st := .idle, upc := .idle, cmds := s.cmds.tail
        trace := s.trace ++ [.command (hcWord true select cancel payload), .completion 5#3] } ∧
    ∀ k : BitVec 3, idGet (idOfValue payload) k = payload.extractLsb' (8 * k.toNat) 8

/-- At any `UPC` but 0 a host command waits, untaken and without effect (R151). -/
def Obligations.BusyEngineTakesNoCommand : Prop :=
  ∀ (s : State) (select cancel : Bool) (payload : BitVec 64), s.upc ≠ .idle →
    exec (.pollC select payload) s = .next s ∧ exec (.pollR payload) s = .next s ∧
    exec (.pollW payload) s = .next s ∧ exec (.load select cancel payload) s = .next s ∧
    exec .uIdle s = .next s

/-- `U_IDLE` takes the word on the command channel: its bits 0 and 2 and 1 decide (R152, R158), and the result is that
of the instruction the word decodes to. -/
def Obligations.IdleTakesTheOfferedCommand : Prop :=
  ∀ (s : State) (w : HcWord) (rest : List HcWord), s.upc = .idle → s.cmds = w :: rest →
    exec .uIdle s = exec (decodeHc w) s ∧
    (w.getLsbD 0 = true → exec .uIdle s =
      .next { s with
        idBuf := idOfValue (w.extractLsb' 3 64), res := .loaded, st := .idle, cmds := rest
        trace := s.trace ++ [.command w, .completion 5#3] }) ∧
    (w.getLsbD 0 = false → w.getLsbD 2 = true → exec .uIdle s =
      .next { s with
        res := .userCancel, st := .idle, cmds := rest
        trace := s.trace ++ [.command w, .completion 4#3] }) ∧
    (w.getLsbD 0 = false → w.getLsbD 2 = false → exec .uIdle s =
      .next { s with
        sel := w.getLsbD 1, upc := .pRst, cmds := rest
        trace := s.trace ++ [.command w] })

/-- Nothing the host offers on the command channel changes what a busy engine does: the step's result is the same
whatever is offered, and the offer is still there (R151). -/
def Obligations.BusyEngineIgnoresTheCommandChannel : Prop :=
  ∀ (s t : State) (offers : List HcWord), s.upc ≠ .idle → s.rstNow = false → step s = .next t →
    t.cmds = s.cmds ∧ step { s with cmds := offers } = .next { t with cmds := offers }

/-- The order of the checks at a `POLL`: cancel, then presence, then select (R185). -/
def Obligations.PollPriority : Prop :=
  ∀ (s : State) (w : HcWord) (cs : List HcWord) (p : Reply) (rest : List Reply),
    s.upc = .idle → s.st = .idle → s.rst = [] → s.cmds = w :: cs → s.replies = p :: rest → w.getLsbD 0 = false →
    (w.getLsbD 2 = true →
      Sys2Proof.core.run 1 s = .next { s with
        res := .userCancel, cmds := cs, trace := s.trace ++ [.command w, .completion 4#3] }) ∧
    (w.getLsbD 2 = false → p.rdata.getLsbD 0 = false →
      Sys2Proof.core.run 2 s = .next { s with
        sel := w.getLsbD 1, upc := .pNodev, cmds := cs, replies := rest, owed := []
        trace := s.trace ++ [.command w, .exchange 0x000#11 p.rdata] }) ∧
    (w.getLsbD 2 = false → p.rdata.getLsbD 0 = true → w.getLsbD 1 = false →
      Sys2Proof.core.run 2 s = .next { s with
        sel := false, st := .reading, upc := .rCmd, cmds := cs, replies := rest, owed := []
        trace := s.trace ++ [.command w, .exchange 0x000#11 p.rdata] }) ∧
    (w.getLsbD 2 = false → p.rdata.getLsbD 0 = true → w.getLsbD 1 = true →
      Sys2Proof.core.run 2 s = .next { s with
        sel := true, st := .writing, upc := .wProg, cmds := cs, replies := rest, owed := []
        trace := s.trace ++ [.command w, .exchange 0x000#11 p.rdata] })

/-! ## The micro-steps -/

/-- `U_P_RST`: the presence check and the dispatch on the presence bit and `SEL`; only bit 0 of the response counts
(R153). -/
def Obligations.PresenceCheckDispatches : Prop :=
  ∀ (s : State) (r : Reply) (rest : List Reply), s.replies = r :: rest →
    (r.rdata.getLsbD 0 = false → exec .uPRst s =
      .next { s with
        upc := .pNodev, replies := rest, owed := []
        trace := s.trace ++ [.exchange 0x000#11 r.rdata] }) ∧
    (r.rdata.getLsbD 0 = true → s.sel = false → exec .uPRst s =
      .next { s with
        st := .reading, upc := .rCmd, replies := rest, owed := []
        trace := s.trace ++ [.exchange 0x000#11 r.rdata] }) ∧
    (r.rdata.getLsbD 0 = true → s.sel = true → exec .uPRst s =
      .next { s with
        st := .writing, upc := .wProg, replies := rest, owed := []
        trace := s.trace ++ [.exchange 0x000#11 r.rdata] })

/-- `U_P_NODEV`: the report `WAITING` and the code `NO_DEVICE`, and no request (R157). -/
def Obligations.NoDeviceReported : Prop :=
  ∀ (s : State) (n : Nat), s.acks = n + 1 →
    exec .uPNodev s =
      .next { s with
        res := .noDevice, st := .idle, upc := .idle, acks := n
        trace := s.trace ++ [.report 0#66, .completion 1#3] }

/-- The micro-steps that make one exchange, drop its response and go on to the next micro-step (R121, R132 to R136,
R139, R143 to R145). -/
def Obligations.ExchangeMicroSteps : Prop :=
  ∀ (s : State) (r : Reply) (rest : List Reply), s.replies = r :: rest →
    exec .uRCmd s = .next { s with
      upc := .rReq, replies := rest, owed := []
      trace := s.trace ++ [.exchange 0x233#11 r.rdata] } ∧
    exec .uWRst1 s = .next { s with
      upc := .wSkip, replies := rest, owed := []
      trace := s.trace ++ [.exchange 0x000#11 r.rdata] } ∧
    exec .uWSkip s = .next { s with
      upc := .wSettle, replies := rest, owed := []
      trace := s.trace ++ [.exchange 0x100#11 r.rdata] } ∧
    exec .uWSettle s = .next { s with
      upc := .wEnter, replies := rest, owed := []
      trace := s.trace ++ [.exchange 0x514#11 r.rdata] } ∧
    exec .uWEnter s = .next { s with
      upc := .wRst2, replies := rest, owed := []
      trace := s.trace ++ [.exchange 0x2D1#11 r.rdata] } ∧
    exec .uWRst2 s = .next { s with
      upc := .wCmd, replies := rest, owed := []
      trace := s.trace ++ [.exchange 0x000#11 r.rdata] } ∧
    exec .uWBdly s = .next { s with
      upc := .wBit, replies := rest, owed := []
      trace := s.trace ++ [.exchange 0x519#11 r.rdata] } ∧
    exec .uWRst3 s = .next { s with
      upc := .wExit, replies := rest, owed := []
      trace := s.trace ++ [.exchange 0x000#11 r.rdata] } ∧
    exec .uWExit s = .next { s with
      upc := .wRst4, replies := rest, owed := []
      trace := s.trace ++ [.exchange 0x2D1#11 r.rdata] } ∧
    exec .uWRst4 s = .next { s with
      upc := .wDone, replies := rest, owed := []
      trace := s.trace ++ [.exchange 0x000#11 r.rdata] }

/-- `U_R_REQ`: eight bytes are asked for and `BYTE` is cleared (R122); of the beats the Bus Transport has, eight are
owed and no more (R101, D20; log entry 5). -/
def Obligations.ReadRequested : Prop :=
  ∀ (s : State) (r : Reply) (rest : List Reply), s.replies = r :: rest →
    exec .uRReq s =
      .next { s with
        byte := 0#3, upc := .rData, replies := rest, owed := r.beats.take 8
        trace := s.trace ++ [.exchange 0x408#11 r.rdata] }

/-- `U_R_DATA`: the beat is stored at `ID[BYTE]` and at no other byte, and `BYTE` counts to 7 without wrapping (R123).
-/
def Obligations.BeatStored : Prop :=
  ∀ (s : State) (d : Byte) (rest : List Byte), s.owed = d :: rest →
    (s.byte = 7#3 → exec .uRData s =
      .next { s with
        idBuf := idSet s.idBuf s.byte d, upc := .rRpt, owed := rest, trace := s.trace ++ [.beat d] }) ∧
    (s.byte ≠ 7#3 → exec .uRData s =
      .next { s with
        idBuf := idSet s.idBuf s.byte d, byte := s.byte + 1#3, owed := rest, trace := s.trace ++ [.beat d] }) ∧
    idGet (idSet s.idBuf s.byte d) s.byte = d ∧
    ∀ k : BitVec 3, k ≠ s.byte → idGet (idSet s.idBuf s.byte d) k = idGet s.idBuf k

/-- `U_R_RPT`: the whole identifier is reported, packed, and the command ends with `READ_DONE` (R124). -/
def Obligations.IdentifierReported : Prop :=
  ∀ (s : State) (n : Nat), s.acks = n + 1 →
    exec .uRRpt s =
      .next { s with
        res := .readDone, st := .idle, upc := .idle, acks := n
        trace := s.trace ++ [.report (idValue s.idBuf ++ 0b01#2), .completion 2#3] }

/-- `U_W_PROG`: the report `WRITE_PROGRESS`, with zero data (R131). -/
def Obligations.WriteProgressReported : Prop :=
  ∀ (s : State) (n : Nat), s.acks = n + 1 →
    exec .uWProg s = .next { s with upc := .wRst1, acks := n, trace := s.trace ++ [.report 2#66] }

/-- `U_W_CMD`: the command `0xD5`, and both loop counters are cleared (R137). -/
def Obligations.WriteCommandSent : Prop :=
  ∀ (s : State) (r : Reply) (rest : List Reply), s.replies = r :: rest →
    exec .uWCmd s =
      .next { s with
        byte := 0#3, bit := 0#3, upc := .wBdly, replies := rest, owed := []
        trace := s.trace ++ [.exchange 0x2D5#11 r.rdata] }

/-- `U_W_BIT`: the complement of bit `BIT` of `ID[BYTE]` is sent, and the loop counts bits, then bytes, and ends after
the last (R140, R141). -/
def Obligations.PayloadBitSent : Prop :=
  ∀ (s : State) (r : Reply) (rest : List Reply) (w : TrWord), s.replies = r :: rest →
    w = (if (idGet s.idBuf s.byte).getLsbD s.bit.toNat then 0x300#11 else 0x301#11) →
    (s.bit < 7#3 → exec .uWBit s =
      .next { s with
        bit := s.bit + 1#3, upc := .wBdly, replies := rest, owed := [], trace := s.trace ++ [.exchange w r.rdata] }) ∧
    (s.bit = 7#3 → s.byte < 7#3 → exec .uWBit s =
      .next { s with
        byte := s.byte + 1#3, bit := 0#3, upc := .wBdly, replies := rest, owed := []
        trace := s.trace ++ [.exchange w r.rdata] }) ∧
    (s.bit = 7#3 → s.byte = 7#3 → exec .uWBit s =
      .next { s with upc := .wRst3, replies := rest, owed := [], trace := s.trace ++ [.exchange w r.rdata] })

/-- `U_W_DONE`: the report `WRITE_COMPLETE` and the code `WRITE_DONE`; no delay is requested (R146). -/
def Obligations.WriteCompleted : Prop :=
  ∀ (s : State) (n : Nat), s.acks = n + 1 →
    exec .uWDone s =
      .next { s with
        res := .writeDone, st := .idle, upc := .idle, acks := n
        trace := s.trace ++ [.report 3#66, .completion 3#3] }

/-- Over one payload byte the values sent are the bits of `0xFF - b`, least significant first, so a byte `0x00` sends
ones and a byte `0xFF` sends zeros (R142, R148). -/
def Obligations.MarshalerSendsTheComplement : Prop :=
  ∀ (p : IdBuf) (k : BitVec 3),
    (∀ j : BitVec 3, payloadBit p k j = (0xFF#8 - idGet p k).getLsbD j.toNat) ∧
    (∀ j : BitVec 3, bitWord p (8 * k.toNat + j.toNat) = trWord .writeBit (bitArg (payloadBit p k j))) ∧
    (idGet p k = 0x00#8 → ∀ j : BitVec 3, bitWord p (8 * k.toNat + j.toNat) = 0x301#11) ∧
    (idGet p k = 0xFF#8 → ∀ j : BitVec 3, bitWord p (8 * k.toNat + j.toNat) = 0x300#11)

/-! ## The messages as rows of their own -/

/-- A request of the Bus Transport contract is one exchange, and writes no state of the engine (R102 to R107; that a
row of the table is run by itself is the model's reading, log entry 7). -/
def Obligations.RequestsExchangeOneWord : Prop :=
  ∀ (s : State) (r : Reply) (rest : List Reply) (b : Byte), s.replies = r :: rest →
    exec .reset s = .next { s with replies := rest, owed := [], trace := s.trace ++ [.exchange 0x000#11 r.rdata] } ∧
    exec .skipRom s = .next { s with replies := rest, owed := [], trace := s.trace ++ [.exchange 0x100#11 r.rdata] } ∧
    exec (.writeByte b) s = .next { s with
      replies := rest, owed := []
      trace := s.trace ++ [.exchange (2#3 ++ b) r.rdata] } ∧
    exec (.writeBit false) s = .next { s with
      replies := rest, owed := []
      trace := s.trace ++ [.exchange 0x300#11 r.rdata] } ∧
    exec (.writeBit true) s = .next { s with
      replies := rest, owed := []
      trace := s.trace ++ [.exchange 0x301#11 r.rdata] } ∧
    exec (.readBytes b) s = .next { s with
      replies := rest, owed := r.beats.take b.toNat
      trace := s.trace ++ [.exchange (4#3 ++ b) r.rdata] } ∧
    exec (.delay b) s = .next { s with
      replies := rest, owed := []
      trace := s.trace ++ [.exchange (5#3 ++ b) r.rdata] }

/-- The 10 request words the engine can issue, each as one exchange (R72; log entry 7). -/
def Obligations.IssuedWordsExchange : Prop :=
  ∀ (s : State) (r : Reply) (rest : List Reply), s.replies = r :: rest →
    exec .resetWord s = .next { s with
      replies := rest, owed := []
      trace := s.trace ++ [.exchange 0x000#11 r.rdata] } ∧
    exec .skipRomWord s = .next { s with
      replies := rest, owed := []
      trace := s.trace ++ [.exchange 0x100#11 r.rdata] } ∧
    exec .wbReadRom s = .next { s with
      replies := rest, owed := []
      trace := s.trace ++ [.exchange 0x233#11 r.rdata] } ∧
    exec .wbWriteMode s = .next { s with
      replies := rest, owed := []
      trace := s.trace ++ [.exchange 0x2D1#11 r.rdata] } ∧
    exec .wbWriteRom s = .next { s with
      replies := rest, owed := []
      trace := s.trace ++ [.exchange 0x2D5#11 r.rdata] } ∧
    exec .wbit0 s = .next { s with replies := rest, owed := [], trace := s.trace ++ [.exchange 0x300#11 r.rdata] } ∧
    exec .wbit1 s = .next { s with replies := rest, owed := [], trace := s.trace ++ [.exchange 0x301#11 r.rdata] } ∧
    exec .rb8 s = .next { s with
      replies := rest, owed := r.beats.take 8
      trace := s.trace ++ [.exchange 0x408#11 r.rdata] } ∧
    exec .dly20 s = .next { s with replies := rest, owed := [], trace := s.trace ++ [.exchange 0x514#11 r.rdata] } ∧
    exec .dly25 s = .next { s with replies := rest, owed := [], trace := s.trace ++ [.exchange 0x519#11 r.rdata] }

/-- The three device command bytes, each sent as the argument of a `WRITEBYTE` with its true bit values (R76, R104;
log entry 7). -/
def Obligations.CommandBytesSentByWriteByte : Prop :=
  ∀ (s : State) (r : Reply) (rest : List Reply), s.replies = r :: rest →
    exec .cmdReadRom s = .next { s with
      replies := rest, owed := []
      trace := s.trace ++ [.exchange 0x233#11 r.rdata] } ∧
    exec .cmdWriteMode s = .next { s with
      replies := rest, owed := []
      trace := s.trace ++ [.exchange 0x2D1#11 r.rdata] } ∧
    exec .cmdWriteRom s = .next { s with
      replies := rest, owed := []
      trace := s.trace ++ [.exchange 0x2D5#11 r.rdata] }

/-- The four reports, each one message to the UI collaborator that changes no register (R74, R159; log entry 7). -/
def Obligations.ReportsDelivered : Prop :=
  ∀ (s : State) (n : Nat) (data : BitVec 64), s.acks = n + 1 →
    exec .rptWaiting s = .next { s with acks := n, trace := s.trace ++ [.report 0#66] } ∧
    exec (.rptIdentifier data) s = .next { s with acks := n, trace := s.trace ++ [.report (data ++ 0b01#2)] } ∧
    exec .rptWriteProgress s = .next { s with acks := n, trace := s.trace ++ [.report 2#66] } ∧
    exec .rptWriteComplete s = .next { s with acks := n, trace := s.trace ++ [.report 3#66] }

/-- A completion code ends the command: it is returned, kept in `RES`, and the engine is ready in `IDLE` (R8, R75,
R160; log entry 7). -/
def Obligations.CompletionEndsTheCommand : Prop :=
  ∀ s : State,
    exec .cplNoDevice s = .next { s with
      res := .noDevice, st := .idle, upc := .idle, trace := s.trace ++ [.completion 1#3] } ∧
    exec .cplReadDone s = .next { s with
      res := .readDone, st := .idle, upc := .idle, trace := s.trace ++ [.completion 2#3] } ∧
    exec .cplWriteDone s = .next { s with
      res := .writeDone, st := .idle, upc := .idle, trace := s.trace ++ [.completion 3#3] } ∧
    exec .cplUserCancel s = .next { s with
      res := .userCancel, st := .idle, upc := .idle, trace := s.trace ++ [.completion 4#3] } ∧
    exec .cplLoaded s = .next { s with
      res := .loaded, st := .idle, upc := .idle, trace := s.trace ++ [.completion 5#3] }

/-- The row `CPL.NONE` is reset, the one event that leaves `NONE` in `RES`, and returns no code: the model's choice,
log entry 8. -/
def Obligations.NoneCodeComesFromReset : Prop :=
  ∀ s : State,
    exec .cplNone s = .next { s with
      idBuf := State.reset.idBuf, st := .idle, upc := .idle, byte := 0#3, bit := 0#3, sel := false, res := .none
      owed := [] }

/-- With no answer the engine takes no further step: an exchange with no reply, a beat that is not there, a report
nobody takes, a ready engine with no command offered leave the whole state as it is (R195, R202; log entry 13). -/
def Obligations.UnansweredMessageStopsTheEngine : Prop :=
  ∀ s : State, s.rst = [] →
    ((∃ w, treqWord s = some w) → s.replies = [] → step s = .next s) ∧
    (wantsBeat s = true → s.owed = [] → step s = .next s) ∧
    ((∃ w, rptWord s = some w) → s.acks = 0 → step s = .next s) ∧
    (s.upc = .idle → s.cmds = [] → step s = .next s)

/-- With an answer the step exchanges exactly the message offered: the request word with the response, the beat, or
the report, one message in one step; beats are owed only after a `READBYTES`, no more than eight (R56, R82, R83, R101).
-/
def Obligations.OfferedMessageIsTheOneExchanged : Prop :=
  ∀ s : State, s.rstNow = false →
    (∀ (w : TrWord) (r : Reply) (rest : List Reply), treqWord s = some w → s.replies = r :: rest →
      ∃ t, step s = .next t ∧ t.trace = s.trace ++ [.exchange w r.rdata] ∧ t.replies = rest ∧
        t.owed = (if w = 0x408#11 then r.beats.take 8 else []) ∧ t.acks = s.acks) ∧
    (∀ (d : Byte) (rest : List Byte), wantsBeat s = true → s.owed = d :: rest →
      ∃ t, step s = .next t ∧ t.trace = s.trace ++ [.beat d] ∧ t.owed = rest ∧ t.replies = s.replies ∧
        t.acks = s.acks) ∧
    (∀ (w : RpWord) (n : Nat), rptWord s = some w → s.acks = n + 1 →
      ∃ t, step s = .next t ∧ t.acks = n ∧ t.replies = s.replies ∧ t.owed = s.owed ∧
        (t.trace = s.trace ++ [.report w] ∨ t.trace = s.trace ++ [.report w, .completion t.res.code]))

/-! ## The routines and the commands as wholes -/

/-- `READ_ID` whole: two exchanges, eight beats stored in order of arrival over every old byte with no check of their
values, one report, `READ_DONE`; surplus beats are never taken (R120, R125 to R127, D20). That the row runs by itself
from the routine's entry is the model's choice, log entry 9. -/
def Obligations.ReadIdentifierWhole : Prop :=
  ∀ (s : State) (r0 r1 : Reply) (ds : IdBuf) (surplus : List Byte) (rest : List Reply) (n : Nat),
    s.replies = r0 :: r1 :: rest → r1.beats = ds.toList ++ surplus → s.acks = n + 1 →
    exec .readId s =
      .next { s with
        idBuf := ds, st := .idle, upc := .idle, byte := 7#3, res := .readDone, replies := rest, owed := [], acks := n
        trace := s.trace ++ readIdTrace r0.rdata r1.rdata ds }

/-- `WRITE_ID` whole (property P2): whatever the Bus Transport answers, the 137 requests are those of the payload in
the exact order, between the two reports; the buffer is only read (R130, R138, R147). That the row runs by itself from
the routine's entry is the model's choice, log entry 9. -/
def Obligations.WriteIdentifierWhole : Prop :=
  ∀ (s : State) (rs rest : List Reply) (n : Nat),
    rs.length = 137 → s.replies = rs ++ rest → s.acks = n + 2 →
    exec .writeId s =
      .next { s with
        st := .idle, upc := .idle, byte := 7#3, bit := 7#3, res := .writeDone, replies := rest, owed := [], acks := n
        trace := s.trace ++ writeIdTrace s.idBuf (rs.map (·.rdata)) }

/-- A routine is the steps of the machine from its entry: 11 for `READ_ID`, 139 for `WRITE_ID`, answered or not (R120,
R130, R162). The row as one instruction is the model's choice, log entry 9. -/
def Obligations.RoutinesAreTheMachinesSteps : Prop :=
  ∀ s : State, s.rst = [] →
    (s.upc = .rCmd → s.st = .reading → Sys2Proof.core.run 11 s = exec .readId s) ∧
    (s.upc = .wProg → s.st = .writing → Sys2Proof.core.run 139 s = exec .writeId s)

/-- The messages `WRITE_ID` adds to the trace, counted, for every payload and whatever the Bus Transport answers: 137
requests, of which 4 `RESET`, 1 `SKIPROM`, 3 `WRITEBYTE`, 64 `WRITEBIT`, no `READBYTES` and 65 `DELAY`, whose
arguments sum to 1620 ms, and no beat (R109, R217). The row as one instruction is the model's choice, log entry 9. -/
def Obligations.WriteRequestCounts : Prop :=
  ∀ (s : State) (rs rest : List Reply) (n : Nat),
    rs.length = 137 → s.replies = rs ++ rest → s.acks = n + 2 →
    ∃ t es, exec .writeId s = .next t ∧ t.trace = s.trace ++ es ∧
      (requestWords es).length = 137 ∧ beatCount es = 0 ∧
      ((requestWords es).map trReq).count TrReq.reset.code = 4 ∧
      ((requestWords es).map trReq).count TrReq.skipRom.code = 1 ∧
      ((requestWords es).map trReq).count TrReq.writeByte.code = 3 ∧
      ((requestWords es).map trReq).count TrReq.writeBit.code = 64 ∧
      ((requestWords es).map trReq).count TrReq.readBytes.code = 0 ∧
      ((requestWords es).map trReq).count TrReq.delay.code = 65 ∧
      (((requestWords es).filter (fun w => trReq w == TrReq.delay.code)).map (fun w => (trArg w).toNat)).sum = 1620

/-- A `POLL` that finds no device: three steps, one request and no further one, the report `WAITING`, `NO_DEVICE`, the
identifier unchanged (R157, R162, R181; property P4). -/
def Obligations.PollWithoutDeviceWhole : Prop :=
  ∀ (s : State) (w : HcWord) (cs : List HcWord) (p : Reply) (rest : List Reply) (n : Nat),
    s.upc = .idle → s.rst = [] → s.cmds = w :: cs → w.getLsbD 0 = false → w.getLsbD 2 = false →
    s.replies = p :: rest → p.rdata.getLsbD 0 = false → s.acks = n + 1 →
    Sys2Proof.core.run 3 s =
      .next { s with
        st := .idle, upc := .idle, sel := w.getLsbD 1, res := .noDevice, cmds := cs, replies := rest, owed := [], acks := n
        trace := s.trace ++ [.command w, .exchange 0x000#11 p.rdata, .report 0#66, .completion 1#3] }

/-- A `POLL.R` that finds a device: 13 steps, three requests, eight beats stored with no check of their values, one
report, `READ_DONE`; surplus beats are never taken (R125 to R127, R155, R162, D20). -/
def Obligations.PollReadWhole : Prop :=
  ∀ (s : State) (w : HcWord) (cs : List HcWord) (p r0 r1 : Reply) (ds : IdBuf)
    (surplus : List Byte) (rest : List Reply) (n : Nat),
    s.upc = .idle → s.rst = [] → s.cmds = w :: cs →
    w.getLsbD 0 = false → w.getLsbD 2 = false → w.getLsbD 1 = false →
    s.replies = p :: r0 :: r1 :: rest → r1.beats = ds.toList ++ surplus → p.rdata.getLsbD 0 = true → s.acks = n + 1 →
    Sys2Proof.core.run 13 s =
      .next { s with
        idBuf := ds, st := .idle, upc := .idle, byte := 7#3, sel := false, res := .readDone
        cmds := cs, replies := rest, owed := [], acks := n
        trace := s.trace ++ [.command w, .exchange 0x000#11 p.rdata] ++ readIdTrace r0.rdata r1.rdata ds }

/-- A `POLL.W` that finds a device: 141 steps, 138 requests, two reports, `WRITE_DONE`, the identifier unchanged
(R147, R156, R162). -/
def Obligations.PollWriteWhole : Prop :=
  ∀ (s : State) (w : HcWord) (cs : List HcWord) (p : Reply) (rs rest : List Reply) (n : Nat),
    s.upc = .idle → s.rst = [] → s.cmds = w :: cs →
    w.getLsbD 0 = false → w.getLsbD 2 = false → w.getLsbD 1 = true →
    s.replies = p :: (rs ++ rest) → p.rdata.getLsbD 0 = true → rs.length = 137 → s.acks = n + 2 →
    Sys2Proof.core.run 141 s =
      .next { s with
        st := .idle, upc := .idle, byte := 7#3, bit := 7#3, sel := true, res := .writeDone
        cmds := cs, replies := rest, owed := [], acks := n
        trace := s.trace ++ [.command w, .exchange 0x000#11 p.rdata] ++ writeIdTrace s.idBuf (rs.map (·.rdata)) }

/-! ## Rules of the whole machine -/

/-- No instruction faults and none is refused, in any state: the engine has no trap, no illegal command and no access
fault (R180). -/
def Obligations.NoInstructionStops : Prop :=
  (∀ (i : Instr) (s : State), ∃ t, exec i s = .next t) ∧ ∀ s : State, ∃ t, step s = .next t

/-- The invariants of R33 hold at reset, with every message legal, every Bus Session in order and no surplus beat
owed. -/
def Obligations.ResetStateIsSafe : Prop := Safe State.reset ∧ OwedWithinContract State.reset

/-- The invariants of R33 are kept by every step. -/
def Obligations.StateInvariantsKept : Prop := ∀ s t : State, Inv s → step s = .next t → Inv t

/-- Only legal messages: if every message so far is one the engine may send, so is every message after a step: only
the 10 request words of R72, no report with data but `IDENTIFIER`, no completion code but 1 to 5 (R72, R74, R75, R79).
-/
def Obligations.OnlyLegalMessages : Prop := ∀ s t : State, TraceLegal s → step s = .next t → TraceLegal t

/-- The Bus Session invariant: in every state that meets it each data phase of the trace is directly preceded by a bus
reset and the command byte of the same command, and every step keeps it, whatever the Bus Transport answers (R62). -/
def Obligations.BusSessionKept : Prop :=
  (∀ s : State, SessionInv s → BusSessionOk s) ∧ ∀ s t : State, SessionInv s → step s = .next t → SessionInv t

/-- The Bus Transport's contract: no beat is owed outside `U_R_DATA`, and there no more than are left of the eight.
Every step keeps it, whatever the Bus Transport has to give, so that no surplus beat is ever taken (R101, D20, U14;
log entry 5). -/
def Obligations.NoSurplusBeatIsOwed : Prop :=
  ∀ s t : State, OwedWithinContract s → step s = .next t → OwedWithinContract t

/-- From the reset values of the engine's registers, whatever the host, the Bus Transport and the UI collaborator
offer and however `rst` is driven, every state a run comes to meets the invariants of R33, has a trace of legal
messages only, and has every data phase of its trace in its Bus Session, with no surplus beat owed (R33, R62, R72,
R74, R75, R79, R101). -/
def Obligations.EveryRunFromResetIsSafe : Prop :=
  ∀ (levels : List Bool) (commands : List HcWord) (answers : List Reply) (reportsTaken : Nat) (s : State),
    Reaches { State.reset with rst := levels, cmds := commands, replies := answers, acks := reportsTaken } s →
    Inv s ∧ TraceLegal s ∧ BusSessionOk s ∧ OwedWithinContract s

/-- The transitions of the protocol state, each with the micro-step that makes it, and no other (R22, R150). -/
def Obligations.ProtocolTransitions : Prop :=
  ∀ s t : State, Inv s → s.rstNow = false → step s = .next t → t.st ≠ s.st →
    (s.st = .idle ∧ t.st = .reading ∧ s.upc = .pRst ∧ s.sel = false ∧
      ∃ r rest, s.replies = r :: rest ∧ r.rdata.getLsbD 0 = true) ∨
    (s.st = .idle ∧ t.st = .writing ∧ s.upc = .pRst ∧ s.sel = true ∧
      ∃ r rest, s.replies = r :: rest ∧ r.rdata.getLsbD 0 = true) ∨
    (s.st = .reading ∧ t.st = .idle ∧ s.upc = .rRpt ∧ t.res = .readDone) ∨
    (s.st = .writing ∧ t.st = .idle ∧ s.upc = .wDone ∧ t.res = .writeDone)

/-- Frame of the identifier buffer, the whole memory: only `LOAD`, a beat, `READ_ID` and reset change a byte of it;
while the engine writes a device, nothing does (R21, R34, R140). -/
def Obligations.IdentifierFrame : Prop :=
  (∀ (i : Instr) (s t : State), writesId i = false → exec i s = .next t → t.idBuf = s.idBuf ∧ t.memory = s.memory) ∧
  (∀ s t : State, protoAt s.upc = .writing → s.rstNow = false → step s = .next t → t.idBuf = s.idBuf)

/-- Frame of the hidden registers `SEL`, `BYTE` and `BIT` (R24, R25, and the "State written" lines). -/
def Obligations.HiddenRegisterFrame : Prop :=
  ∀ (i : Instr) (s t : State), exec i s = .next t →
    (writesSel i = false → t.sel = s.sel) ∧ (writesByte i = false → t.byte = s.byte) ∧
    (writesBit i = false → t.bit = s.bit)

/-- Frame of the status registers `RES` and `ST` (R22, R26, and the "State written" lines). -/
def Obligations.StatusRegisterFrame : Prop :=
  ∀ (i : Instr) (s t : State), exec i s = .next t →
    (writesRes i = false → t.res = s.res) ∧ (writesSt i = false → t.st = s.st)

/-- `RES` is written only by a completion, which returns the same code, and by reset (R26). -/
def Obligations.ResWrittenOnlyByCompletion : Prop :=
  ∀ s t : State, s.rstNow = false → step s = .next t →
    t.res = s.res ∨ ∃ es, t.trace = s.trace ++ es ++ [.completion t.res.code]

/-- A command ends with exactly one completion: a step that exchanges something leaves the engine ready exactly when
it returns a code, and it returns at most one, last (R160). -/
def Obligations.CompletionExactlyWhenReady : Prop :=
  ∀ s t : State, s.rstNow = false → step s = .next t →
    t = { s with rst := s.rst.tail } ∨
    (∃ e, t.trace = s.trace ++ [e] ∧ t.upc ≠ .idle ∧ ∀ c, e ≠ .completion c) ∨
    (∃ e c, t.trace = s.trace ++ [e, .completion c] ∧ t.upc = .idle ∧ t.st = .idle ∧ c = t.res.code ∧
      ∀ c', e ≠ .completion c')

/-- No instruction takes a message back: the trace only grows, and what the other agents offer is only consumed from
the front; beats come to be owed only by the acceptance of a `READBYTES` (R54, R56, R101). -/
def Obligations.TraceOnlyGrows : Prop :=
  ∀ (i : Instr) (s t : State), exec i s = .next t →
    s.trace <+: t.trace ∧ t.replies <:+ s.replies ∧ t.cmds <:+ s.cmds ∧ t.acks ≤ s.acks ∧ t.rst = s.rst ∧
    (acceptsBeats i = false → t.owed <:+ s.owed)

/-- The presence bits of the four resets of a Write, and every other answer in it, are dropped: two answers lead to
the same state but for the answer recorded in the trace (R138). -/
def Obligations.AnswersInAWriteAreDropped : Prop :=
  ∀ (s : State) (w : TrWord) (r r' : Reply) (rest : List Reply),
    protoAt s.upc = .writing → treqWord s = some w → s.rstNow = false → s.replies = r :: rest →
    ∃ t, step s = .next t ∧ t.trace = s.trace ++ [.exchange w r.rdata] ∧
      step { s with replies := r' :: rest } = .next { t with trace := s.trace ++ [.exchange w r'.rdata] }

/-! ## The reference fixture (not the hardware; log entry 11) -/

/-- Property P1 on the fixture, the spec's construction and not hardware (log entry 11): a `POLL.R` with the device on
the reader ends with `ID` equal to the device's ROM, and leaves the ROM as it was. -/
def Obligations.FixtureReadDeliversTheRom : Prop :=
  ∀ (s : State) (d : Device) (w : HcWord) (cs : List HcWord),
    s.upc = .idle → s.rst = [] → s.replies = [] → s.cmds = w :: cs →
    w.getLsbD 0 = false → w.getLsbD 2 = false → w.getLsbD 1 = false →
    d.present = true → d.pend = false →
    ∃ c, Bench.run 13 ⟨s, d⟩ = .next c ∧ c.engine.idBuf = d.rom ∧ c.engine.res = .readDone ∧
      c.device.rom = d.rom ∧ c.device.we = d.we ∧ c.device.pend = false

/-- Property P5 on the fixture, the spec's construction and not hardware (log entry 11), the Write's half: a `POLL.W`
with the device on the reader and not write-enabled leaves the device's ROM equal to the engine's identifier, and the
device not write-enabled. -/
def Obligations.FixtureWriteClonesTheIdentifier : Prop :=
  ∀ (s : State) (d : Device) (w : HcWord) (cs : List HcWord),
    s.upc = .idle → s.rst = [] → s.replies = [] → s.cmds = w :: cs →
    w.getLsbD 0 = false → w.getLsbD 2 = false → w.getLsbD 1 = true →
    d.present = true → d.pend = false → d.we = false →
    ∃ c, Bench.run 141 ⟨s, d⟩ = .next c ∧ c.device.rom = s.idBuf ∧ c.engine.idBuf = s.idBuf ∧
      c.engine.res = .writeDone ∧ c.device.we = false ∧ c.device.pend = false
end

