-- ==== Sys2Proof/Laws/Operands.lean ====
section
/-! SUPPORT. The laws of the identifier buffer: read after write, and the one form of its memory view. -/

namespace Sys2Proof.Laws

open Sys2Proof.Machine

/-- A byte written is read back. -/
@[simp] theorem idGet_idSet_same (v : IdBuf) (k : BitVec 3) (d : Byte) : idGet (idSet v k d) k = d := by
  simp [idGet, idSet]

/-- A write leaves every other byte alone. -/
theorem idGet_idSet_other (v : IdBuf) {k j : BitVec 3} (d : Byte) (h : j ≠ k) : idGet (idSet v k d) j = idGet v j := by
  have hne : k.toNat ≠ j.toNat := fun e => h (BitVec.eq_of_toNat_eq e.symm)
  simp [idGet, idSet, Vector.getElem_set_ne _ _ hne]

/-- Two buffers that read the same at every index are the same. -/
theorem idBuf_ext {v w : IdBuf} (h : ∀ k, idGet v k = idGet w k) : v = w := by
  apply Vector.ext
  intro i hi
  have := h (BitVec.ofNat 3 i)
  simpa [idGet, Nat.mod_eq_of_lt hi] using this

/-- The memory view of every state has the one form, so every operation keeps it. -/
theorem memory_wf (s : State) : Memory.wf s.memory = true := by
  simp [Memory.wf, Memory.rising, State.memory]

/-- A write of one byte of the memory keeps the form. -/
theorem writeId_memory_wf (s : State) (k : BitVec 3) (d : Byte) : Memory.wf (s.writeId k d).memory = true :=
  memory_wf _

/-- A write of all eight bytes keeps the form. -/
theorem loadId_memory_wf (s : State) (v : BitVec 64) : Memory.wf (s.loadId v).memory = true :=
  memory_wf _

/-- The memory right after reset has the form. -/
theorem reset_memory_wf : Memory.wf State.reset.memory = true := memory_wf _

end Sys2Proof.Laws
end

