-- ==== Sys2Proof/Laws/State.lean ====
section
/-! SUPPORT. One lemma for each field under each update of the state, true by definition. -/

namespace Sys2Proof.Laws

open Sys2Proof.Machine

@[simp] theorem goto_idBuf (s : State) (u : MicroStep) : (s.goto u).idBuf = s.idBuf := rfl
@[simp] theorem goto_st (s : State) (u : MicroStep) : (s.goto u).st = s.st := rfl
@[simp] theorem goto_upc (s : State) (u : MicroStep) : (s.goto u).upc = u := rfl
@[simp] theorem goto_byte (s : State) (u : MicroStep) : (s.goto u).byte = s.byte := rfl
@[simp] theorem goto_bit (s : State) (u : MicroStep) : (s.goto u).bit = s.bit := rfl
@[simp] theorem goto_sel (s : State) (u : MicroStep) : (s.goto u).sel = s.sel := rfl
@[simp] theorem goto_res (s : State) (u : MicroStep) : (s.goto u).res = s.res := rfl
@[simp] theorem goto_rst (s : State) (u : MicroStep) : (s.goto u).rst = s.rst := rfl
@[simp] theorem goto_cmds (s : State) (u : MicroStep) : (s.goto u).cmds = s.cmds := rfl
@[simp] theorem goto_replies (s : State) (u : MicroStep) : (s.goto u).replies = s.replies := rfl
@[simp] theorem goto_owed (s : State) (u : MicroStep) : (s.goto u).owed = s.owed := rfl
@[simp] theorem goto_acks (s : State) (u : MicroStep) : (s.goto u).acks = s.acks := rfl
@[simp] theorem goto_trace (s : State) (u : MicroStep) : (s.goto u).trace = s.trace := rfl

@[simp] theorem setSt_idBuf (s : State) (p : Proto) : (s.setSt p).idBuf = s.idBuf := rfl
@[simp] theorem setSt_st (s : State) (p : Proto) : (s.setSt p).st = p := rfl
@[simp] theorem setSt_upc (s : State) (p : Proto) : (s.setSt p).upc = s.upc := rfl
@[simp] theorem setSt_byte (s : State) (p : Proto) : (s.setSt p).byte = s.byte := rfl
@[simp] theorem setSt_bit (s : State) (p : Proto) : (s.setSt p).bit = s.bit := rfl
@[simp] theorem setSt_sel (s : State) (p : Proto) : (s.setSt p).sel = s.sel := rfl
@[simp] theorem setSt_res (s : State) (p : Proto) : (s.setSt p).res = s.res := rfl
@[simp] theorem setSt_rst (s : State) (p : Proto) : (s.setSt p).rst = s.rst := rfl
@[simp] theorem setSt_cmds (s : State) (p : Proto) : (s.setSt p).cmds = s.cmds := rfl
@[simp] theorem setSt_replies (s : State) (p : Proto) : (s.setSt p).replies = s.replies := rfl
@[simp] theorem setSt_owed (s : State) (p : Proto) : (s.setSt p).owed = s.owed := rfl
@[simp] theorem setSt_acks (s : State) (p : Proto) : (s.setSt p).acks = s.acks := rfl
@[simp] theorem setSt_trace (s : State) (p : Proto) : (s.setSt p).trace = s.trace := rfl

@[simp] theorem setByte_idBuf (s : State) (n : BitVec 3) : (s.setByte n).idBuf = s.idBuf := rfl
@[simp] theorem setByte_st (s : State) (n : BitVec 3) : (s.setByte n).st = s.st := rfl
@[simp] theorem setByte_upc (s : State) (n : BitVec 3) : (s.setByte n).upc = s.upc := rfl
@[simp] theorem setByte_byte (s : State) (n : BitVec 3) : (s.setByte n).byte = n := rfl
@[simp] theorem setByte_bit (s : State) (n : BitVec 3) : (s.setByte n).bit = s.bit := rfl
@[simp] theorem setByte_sel (s : State) (n : BitVec 3) : (s.setByte n).sel = s.sel := rfl
@[simp] theorem setByte_res (s : State) (n : BitVec 3) : (s.setByte n).res = s.res := rfl
@[simp] theorem setByte_rst (s : State) (n : BitVec 3) : (s.setByte n).rst = s.rst := rfl
@[simp] theorem setByte_cmds (s : State) (n : BitVec 3) : (s.setByte n).cmds = s.cmds := rfl
@[simp] theorem setByte_replies (s : State) (n : BitVec 3) : (s.setByte n).replies = s.replies := rfl
@[simp] theorem setByte_owed (s : State) (n : BitVec 3) : (s.setByte n).owed = s.owed := rfl
@[simp] theorem setByte_acks (s : State) (n : BitVec 3) : (s.setByte n).acks = s.acks := rfl
@[simp] theorem setByte_trace (s : State) (n : BitVec 3) : (s.setByte n).trace = s.trace := rfl

@[simp] theorem setBit_idBuf (s : State) (n : BitVec 3) : (s.setBit n).idBuf = s.idBuf := rfl
@[simp] theorem setBit_st (s : State) (n : BitVec 3) : (s.setBit n).st = s.st := rfl
@[simp] theorem setBit_upc (s : State) (n : BitVec 3) : (s.setBit n).upc = s.upc := rfl
@[simp] theorem setBit_byte (s : State) (n : BitVec 3) : (s.setBit n).byte = s.byte := rfl
@[simp] theorem setBit_bit (s : State) (n : BitVec 3) : (s.setBit n).bit = n := rfl
@[simp] theorem setBit_sel (s : State) (n : BitVec 3) : (s.setBit n).sel = s.sel := rfl
@[simp] theorem setBit_res (s : State) (n : BitVec 3) : (s.setBit n).res = s.res := rfl
@[simp] theorem setBit_rst (s : State) (n : BitVec 3) : (s.setBit n).rst = s.rst := rfl
@[simp] theorem setBit_cmds (s : State) (n : BitVec 3) : (s.setBit n).cmds = s.cmds := rfl
@[simp] theorem setBit_replies (s : State) (n : BitVec 3) : (s.setBit n).replies = s.replies := rfl
@[simp] theorem setBit_owed (s : State) (n : BitVec 3) : (s.setBit n).owed = s.owed := rfl
@[simp] theorem setBit_acks (s : State) (n : BitVec 3) : (s.setBit n).acks = s.acks := rfl
@[simp] theorem setBit_trace (s : State) (n : BitVec 3) : (s.setBit n).trace = s.trace := rfl

@[simp] theorem setSel_idBuf (s : State) (b : Bool) : (s.setSel b).idBuf = s.idBuf := rfl
@[simp] theorem setSel_st (s : State) (b : Bool) : (s.setSel b).st = s.st := rfl
@[simp] theorem setSel_upc (s : State) (b : Bool) : (s.setSel b).upc = s.upc := rfl
@[simp] theorem setSel_byte (s : State) (b : Bool) : (s.setSel b).byte = s.byte := rfl
@[simp] theorem setSel_bit (s : State) (b : Bool) : (s.setSel b).bit = s.bit := rfl
@[simp] theorem setSel_sel (s : State) (b : Bool) : (s.setSel b).sel = b := rfl
@[simp] theorem setSel_res (s : State) (b : Bool) : (s.setSel b).res = s.res := rfl
@[simp] theorem setSel_rst (s : State) (b : Bool) : (s.setSel b).rst = s.rst := rfl
@[simp] theorem setSel_cmds (s : State) (b : Bool) : (s.setSel b).cmds = s.cmds := rfl
@[simp] theorem setSel_replies (s : State) (b : Bool) : (s.setSel b).replies = s.replies := rfl
@[simp] theorem setSel_owed (s : State) (b : Bool) : (s.setSel b).owed = s.owed := rfl
@[simp] theorem setSel_acks (s : State) (b : Bool) : (s.setSel b).acks = s.acks := rfl
@[simp] theorem setSel_trace (s : State) (b : Bool) : (s.setSel b).trace = s.trace := rfl

@[simp] theorem record_idBuf (s : State) (e : Event) : (s.record e).idBuf = s.idBuf := rfl
@[simp] theorem record_st (s : State) (e : Event) : (s.record e).st = s.st := rfl
@[simp] theorem record_upc (s : State) (e : Event) : (s.record e).upc = s.upc := rfl
@[simp] theorem record_byte (s : State) (e : Event) : (s.record e).byte = s.byte := rfl
@[simp] theorem record_bit (s : State) (e : Event) : (s.record e).bit = s.bit := rfl
@[simp] theorem record_sel (s : State) (e : Event) : (s.record e).sel = s.sel := rfl
@[simp] theorem record_res (s : State) (e : Event) : (s.record e).res = s.res := rfl
@[simp] theorem record_rst (s : State) (e : Event) : (s.record e).rst = s.rst := rfl
@[simp] theorem record_cmds (s : State) (e : Event) : (s.record e).cmds = s.cmds := rfl
@[simp] theorem record_replies (s : State) (e : Event) : (s.record e).replies = s.replies := rfl
@[simp] theorem record_owed (s : State) (e : Event) : (s.record e).owed = s.owed := rfl
@[simp] theorem record_acks (s : State) (e : Event) : (s.record e).acks = s.acks := rfl
@[simp] theorem record_trace (s : State) (e : Event) : (s.record e).trace = s.trace ++ [e] := rfl

@[simp] theorem writeId_idBuf (s : State) (k : BitVec 3) (d : Byte) : (s.writeId k d).idBuf = idSet s.idBuf k d := rfl
@[simp] theorem writeId_st (s : State) (k : BitVec 3) (d : Byte) : (s.writeId k d).st = s.st := rfl
@[simp] theorem writeId_upc (s : State) (k : BitVec 3) (d : Byte) : (s.writeId k d).upc = s.upc := rfl
@[simp] theorem writeId_byte (s : State) (k : BitVec 3) (d : Byte) : (s.writeId k d).byte = s.byte := rfl
@[simp] theorem writeId_bit (s : State) (k : BitVec 3) (d : Byte) : (s.writeId k d).bit = s.bit := rfl
@[simp] theorem writeId_sel (s : State) (k : BitVec 3) (d : Byte) : (s.writeId k d).sel = s.sel := rfl
@[simp] theorem writeId_res (s : State) (k : BitVec 3) (d : Byte) : (s.writeId k d).res = s.res := rfl
@[simp] theorem writeId_rst (s : State) (k : BitVec 3) (d : Byte) : (s.writeId k d).rst = s.rst := rfl
@[simp] theorem writeId_cmds (s : State) (k : BitVec 3) (d : Byte) : (s.writeId k d).cmds = s.cmds := rfl
@[simp] theorem writeId_replies (s : State) (k : BitVec 3) (d : Byte) : (s.writeId k d).replies = s.replies := rfl
@[simp] theorem writeId_owed (s : State) (k : BitVec 3) (d : Byte) : (s.writeId k d).owed = s.owed := rfl
@[simp] theorem writeId_acks (s : State) (k : BitVec 3) (d : Byte) : (s.writeId k d).acks = s.acks := rfl
@[simp] theorem writeId_trace (s : State) (k : BitVec 3) (d : Byte) : (s.writeId k d).trace = s.trace := rfl

@[simp] theorem loadId_idBuf (s : State) (v : BitVec 64) : (s.loadId v).idBuf = idOfValue v := rfl
@[simp] theorem loadId_st (s : State) (v : BitVec 64) : (s.loadId v).st = s.st := rfl
@[simp] theorem loadId_upc (s : State) (v : BitVec 64) : (s.loadId v).upc = s.upc := rfl
@[simp] theorem loadId_byte (s : State) (v : BitVec 64) : (s.loadId v).byte = s.byte := rfl
@[simp] theorem loadId_bit (s : State) (v : BitVec 64) : (s.loadId v).bit = s.bit := rfl
@[simp] theorem loadId_sel (s : State) (v : BitVec 64) : (s.loadId v).sel = s.sel := rfl
@[simp] theorem loadId_res (s : State) (v : BitVec 64) : (s.loadId v).res = s.res := rfl
@[simp] theorem loadId_rst (s : State) (v : BitVec 64) : (s.loadId v).rst = s.rst := rfl
@[simp] theorem loadId_cmds (s : State) (v : BitVec 64) : (s.loadId v).cmds = s.cmds := rfl
@[simp] theorem loadId_replies (s : State) (v : BitVec 64) : (s.loadId v).replies = s.replies := rfl
@[simp] theorem loadId_owed (s : State) (v : BitVec 64) : (s.loadId v).owed = s.owed := rfl
@[simp] theorem loadId_acks (s : State) (v : BitVec 64) : (s.loadId v).acks = s.acks := rfl
@[simp] theorem loadId_trace (s : State) (v : BitVec 64) : (s.loadId v).trace = s.trace := rfl

@[simp] theorem tick_idBuf (s : State) : (s.tick).idBuf = s.idBuf := rfl
@[simp] theorem tick_st (s : State) : (s.tick).st = s.st := rfl
@[simp] theorem tick_upc (s : State) : (s.tick).upc = s.upc := rfl
@[simp] theorem tick_byte (s : State) : (s.tick).byte = s.byte := rfl
@[simp] theorem tick_bit (s : State) : (s.tick).bit = s.bit := rfl
@[simp] theorem tick_sel (s : State) : (s.tick).sel = s.sel := rfl
@[simp] theorem tick_res (s : State) : (s.tick).res = s.res := rfl
@[simp] theorem tick_rst (s : State) : (s.tick).rst = s.rst.tail := rfl
@[simp] theorem tick_cmds (s : State) : (s.tick).cmds = s.cmds := rfl
@[simp] theorem tick_replies (s : State) : (s.tick).replies = s.replies := rfl
@[simp] theorem tick_owed (s : State) : (s.tick).owed = s.owed := rfl
@[simp] theorem tick_acks (s : State) : (s.tick).acks = s.acks := rfl
@[simp] theorem tick_trace (s : State) : (s.tick).trace = s.trace := rfl

@[simp] theorem complete_idBuf (s : State) (c : Completion) : (complete c s).idBuf = s.idBuf := rfl
@[simp] theorem complete_st (s : State) (c : Completion) : (complete c s).st = .idle := rfl
@[simp] theorem complete_upc (s : State) (c : Completion) : (complete c s).upc = .idle := rfl
@[simp] theorem complete_byte (s : State) (c : Completion) : (complete c s).byte = s.byte := rfl
@[simp] theorem complete_bit (s : State) (c : Completion) : (complete c s).bit = s.bit := rfl
@[simp] theorem complete_sel (s : State) (c : Completion) : (complete c s).sel = s.sel := rfl
@[simp] theorem complete_res (s : State) (c : Completion) : (complete c s).res = c := rfl
@[simp] theorem complete_rst (s : State) (c : Completion) : (complete c s).rst = s.rst := rfl
@[simp] theorem complete_cmds (s : State) (c : Completion) : (complete c s).cmds = s.cmds := rfl
@[simp] theorem complete_replies (s : State) (c : Completion) : (complete c s).replies = s.replies := rfl
@[simp] theorem complete_owed (s : State) (c : Completion) : (complete c s).owed = s.owed := rfl
@[simp] theorem complete_acks (s : State) (c : Completion) : (complete c s).acks = s.acks := rfl
@[simp] theorem complete_trace (s : State) (c : Completion) : (complete c s).trace = s.trace ++ [.completion c.code] := rfl

@[simp] theorem resetEngine_idBuf (s : State) : (resetEngine s).idBuf = idOfValue Config.idReset := rfl
@[simp] theorem resetEngine_st (s : State) : (resetEngine s).st = .idle := rfl
@[simp] theorem resetEngine_upc (s : State) : (resetEngine s).upc = .idle := rfl
@[simp] theorem resetEngine_byte (s : State) : (resetEngine s).byte = 0#3 := rfl
@[simp] theorem resetEngine_bit (s : State) : (resetEngine s).bit = 0#3 := rfl
@[simp] theorem resetEngine_sel (s : State) : (resetEngine s).sel = false := rfl
@[simp] theorem resetEngine_res (s : State) : (resetEngine s).res = .none := rfl
@[simp] theorem resetEngine_rst (s : State) : (resetEngine s).rst = s.rst := rfl
@[simp] theorem resetEngine_cmds (s : State) : (resetEngine s).cmds = s.cmds := rfl
@[simp] theorem resetEngine_replies (s : State) : (resetEngine s).replies = s.replies := rfl
@[simp] theorem resetEngine_owed (s : State) : (resetEngine s).owed = [] := rfl
@[simp] theorem resetEngine_acks (s : State) : (resetEngine s).acks = s.acks := rfl
@[simp] theorem resetEngine_trace (s : State) : (resetEngine s).trace = s.trace := rfl

/-- Two states with the same fields are the same state. -/
theorem state_ext {s t : State} (h1 : s.idBuf = t.idBuf) (h2 : s.st = t.st) (h3 : s.upc = t.upc)
    (h4 : s.byte = t.byte) (h5 : s.bit = t.bit) (h6 : s.sel = t.sel) (h7 : s.res = t.res) (h8 : s.rst = t.rst)
    (h9 : s.cmds = t.cmds) (h10 : s.replies = t.replies) (h11 : s.owed = t.owed) (h12 : s.acks = t.acks)
    (h13 : s.trace = t.trace) : s = t := by
  cases s; cases t; simp_all

end Sys2Proof.Laws
end

