-- ==== Sys2Proof/Laws/Ops.lean ====
section
/-! SUPPORT. One lemma for each shared operation that says all it can do. -/

namespace Sys2Proof.Laws

open Sys2Proof.Machine

/-- The beats due to a request word put together from its fields (R72, R73): `count` of a `READBYTES`, else none. -/
@[simp] theorem beatsDue_trWord (q : TrReq) (arg : Byte) :
    beatsDue (trWord q arg) = if q = .readBytes then arg.toNat else 0 := by
  have hq : trReq (trWord q arg) = q.code := by
    apply BitVec.eq_of_getLsbD_eq
    intro i hi
    simp only [trReq, trWord, BitVec.getLsbD_extractLsb', BitVec.getLsbD_append]
    simp [hi]
  have ha : trArg (trWord q arg) = arg := by
    apply BitVec.eq_of_getLsbD_eq
    intro i hi
    simp only [trArg, trWord, BitVec.getLsbD_extractLsb', BitVec.getLsbD_append]
    simp [hi]
  cases q <;> simp [beatsDue, hq, ha, TrReq.code]

/-- With no answer an exchange does not happen. -/
theorem exchange_nil (w : TrWord) (k : TsWord → State → State) {s : State} (h : s.replies = []) :
    exchange w k s = s := by
  simp [exchange, h]

/-- With an answer the exchange goes on with it. -/
theorem exchange_cons (w : TrWord) (k : TsWord → State → State) {s : State} {r : Reply} {rest : List Reply}
    (h : s.replies = r :: rest) :
    exchange w k s = k r.rdata { s with
      replies := rest, owed := r.beats.take (beatsDue w), trace := s.trace ++ [.exchange w r.rdata] } := by
  simp [exchange, h, State.record]

/-- With an answer an exchange that is due no beats goes on with it, and no beat is owed. -/
theorem exchange_plain {w : TrWord} (k : TsWord → State → State) {s : State} {r : Reply} {rest : List Reply}
    (hw : beatsDue w = 0) (h : s.replies = r :: rest) :
    exchange w k s = k r.rdata { s with
      replies := rest, owed := [], trace := s.trace ++ [.exchange w r.rdata] } := by
  rw [exchange_cons w k h, hw, List.take_zero]

/-- All an exchange can do. -/
theorem exchange_cases (w : TrWord) (k : TsWord → State → State) (s : State) :
    (s.replies = [] ∧ exchange w k s = s) ∨
    ∃ r rest, s.replies = r :: rest ∧
      exchange w k s = k r.rdata { s with
        replies := rest, owed := r.beats.take (beatsDue w), trace := s.trace ++ [.exchange w r.rdata] } := by
  cases h : s.replies with
  | nil => exact .inl ⟨rfl, exchange_nil w k h⟩
  | cons r rest => exact .inr ⟨r, rest, rfl, exchange_cons w k h⟩

/-- With no beat the step does not happen. -/
theorem takeBeat_nil (k : Byte → State → State) {s : State} (h : s.owed = []) : takeBeat k s = s := by
  simp [takeBeat, h]

/-- With a beat the step goes on with it. -/
theorem takeBeat_cons (k : Byte → State → State) {s : State} {d : Byte} {rest : List Byte} (h : s.owed = d :: rest) :
    takeBeat k s = k d { s with owed := rest, trace := s.trace ++ [.beat d] } := by
  simp [takeBeat, h, State.record]

/-- All the taking of a beat can do. -/
theorem takeBeat_cases (k : Byte → State → State) (s : State) :
    (s.owed = [] ∧ takeBeat k s = s) ∨
    ∃ d rest, s.owed = d :: rest ∧ takeBeat k s = k d { s with owed := rest, trace := s.trace ++ [.beat d] } := by
  cases h : s.owed with
  | nil => exact .inl ⟨rfl, takeBeat_nil k h⟩
  | cons d rest => exact .inr ⟨d, rest, rfl, takeBeat_cons k h⟩

/-- A report nobody takes is not made. -/
theorem sendReport_zero (w : RpWord) (k : State → State) {s : State} (h : s.acks = 0) : sendReport w k s = s := by
  simp [sendReport, h]

/-- A report that is taken. -/
theorem sendReport_succ (w : RpWord) (k : State → State) {s : State} {n : Nat} (h : s.acks = n + 1) :
    sendReport w k s = k { s with acks := n, trace := s.trace ++ [.report w] } := by
  simp [sendReport, h, State.record]

/-- All a report can do. -/
theorem sendReport_cases (w : RpWord) (k : State → State) (s : State) :
    (s.acks = 0 ∧ sendReport w k s = s) ∨
    ∃ n, s.acks = n + 1 ∧ sendReport w k s = k { s with acks := n, trace := s.trace ++ [.report w] } := by
  cases h : s.acks with
  | zero => exact .inl ⟨rfl, sendReport_zero w k h⟩
  | succ n => exact .inr ⟨n, rfl, sendReport_succ w k h⟩

/-- The command channel is closed while the engine is busy. -/
theorem takeCommand_busy (w : HcWord) (k : State → State) {s : State} (h : s.upc ≠ .idle) : takeCommand w k s = s := by
  simp [takeCommand, ready, h]

/-- The command channel is open at `U_IDLE`. -/
theorem takeCommand_ready (w : HcWord) (k : State → State) {s : State} (h : s.upc = .idle) :
    takeCommand w k s = k { s with cmds := s.cmds.tail, trace := s.trace ++ [.command w] } := by
  simp [takeCommand, ready, h, State.record]

/-- All the taking of a command can do. -/
theorem takeCommand_cases (w : HcWord) (k : State → State) (s : State) :
    (s.upc ≠ .idle ∧ takeCommand w k s = s) ∨
    (s.upc = .idle ∧
      takeCommand w k s = k { s with cmds := s.cmds.tail, trace := s.trace ++ [.command w] }) := by
  by_cases h : s.upc = .idle
  · exact .inr ⟨h, takeCommand_ready w k h⟩
  · exact .inl ⟨h, takeCommand_busy w k h⟩

/-- All a `POLL` as taken can do. -/
theorem pollTaken_cases (select cancel : Bool) (s : State) :
    (cancel = true ∧ pollTaken select cancel s = complete .userCancel s) ∨
    (cancel = false ∧ pollTaken select cancel s = { s with sel := select, upc := .pRst }) := by
  cases cancel
  · exact .inr ⟨rfl, rfl⟩
  · exact .inl ⟨rfl, rfl⟩

/-- All the dispatch can do. -/
theorem dispatchPoll_cases (r : TsWord) (s : State) :
    (presence r = false ∧ dispatchPoll r s = { s with upc := .pNodev }) ∨
    (presence r = true ∧ s.sel = false ∧ dispatchPoll r s = { s with st := .reading, upc := .rCmd }) ∨
    (presence r = true ∧ s.sel = true ∧ dispatchPoll r s = { s with st := .writing, upc := .wProg }) := by
  cases hp : presence r <;> cases hs : s.sel <;> simp [dispatchPoll, hp, hs, raise, State.goto, State.setSt]

/-- All the storing of a beat can do. -/
theorem storeBeat_cases (d : Byte) (s : State) :
    (s.byte = 7#3 ∧ storeBeat d s = { s with idBuf := idSet s.idBuf s.byte d, upc := .rRpt }) ∨
    (s.byte ≠ 7#3 ∧ storeBeat d s = { s with idBuf := idSet s.idBuf s.byte d, byte := s.byte + 1#3 }) := by
  by_cases h : s.byte = 7#3
  · exact .inl ⟨h, by simp [storeBeat, h, State.writeId, State.goto]⟩
  · exact .inr ⟨h, by simp [storeBeat, h, State.writeId, State.setByte]⟩

/-- All the loop control of the bit loop can do. -/
theorem nextBit_cases (s : State) :
    (s.bit ≠ 7#3 ∧ nextBit s = { s with bit := s.bit + 1#3, upc := .wBdly }) ∨
    (s.bit = 7#3 ∧ s.byte ≠ 7#3 ∧ nextBit s = { s with byte := s.byte + 1#3, bit := 0#3, upc := .wBdly }) ∨
    (s.bit = 7#3 ∧ s.byte = 7#3 ∧ nextBit s = { s with upc := .wRst3 }) := by
  by_cases h : s.bit = 7#3 <;> by_cases k : s.byte = 7#3 <;>
    simp [nextBit, h, k, State.setBit, State.setByte, State.goto]

/-- With `rst` released for good a step is the fetched instruction. -/
theorem step_of_rst_nil {s : State} (h : s.rst = []) : step s = exec (fetch s) s := by
  have ht : s.tick = s := by cases s; simp_all [State.tick]
  simp [step, State.rstNow, h, ht]

end Sys2Proof.Laws
end

