-- ==== Sys2Proof/Laws/PerInstr.lean ====
section
/-! SUPPORT. Families of statements made instruction by instruction. -/

namespace Sys2Proof.Laws.EncodingFits

/-- The word of the instruction has no bit above the width of its format (spec/30_encoding.md R80). -/
def Statement (i : Instr) : Prop := encode i < 2 ^ i.format.width

theorem pollC (select : Bool) (payload : BitVec 64) : Statement (.pollC select payload) := BitVec.isLt _
theorem pollR (payload : BitVec 64) : Statement (.pollR payload) := BitVec.isLt _
theorem pollW (payload : BitVec 64) : Statement (.pollW payload) := BitVec.isLt _
theorem load (select cancel : Bool) (payload : BitVec 64) : Statement (.load select cancel payload) := BitVec.isLt _
theorem readId : Statement .readId := by unfold Statement; decide
theorem writeId : Statement .writeId := by unfold Statement; decide
theorem reset : Statement .reset := BitVec.isLt _
theorem skipRom : Statement .skipRom := BitVec.isLt _
theorem writeByte (arg : Byte) : Statement (.writeByte arg) := BitVec.isLt _
theorem writeBit (v : Bool) : Statement (.writeBit v) := BitVec.isLt _
theorem readBytes (count : Byte) : Statement (.readBytes count) := BitVec.isLt _
theorem delay (ms : Byte) : Statement (.delay ms) := BitVec.isLt _
theorem resetWord : Statement .resetWord := by unfold Statement; decide
theorem skipRomWord : Statement .skipRomWord := by unfold Statement; decide
theorem wbReadRom : Statement .wbReadRom := by unfold Statement; decide
theorem wbWriteMode : Statement .wbWriteMode := by unfold Statement; decide
theorem wbWriteRom : Statement .wbWriteRom := by unfold Statement; decide
theorem wbit0 : Statement .wbit0 := by unfold Statement; decide
theorem wbit1 : Statement .wbit1 := by unfold Statement; decide
theorem rb8 : Statement .rb8 := by unfold Statement; decide
theorem dly20 : Statement .dly20 := by unfold Statement; decide
theorem dly25 : Statement .dly25 := by unfold Statement; decide
theorem cmdReadRom : Statement .cmdReadRom := by unfold Statement; decide
theorem cmdWriteMode : Statement .cmdWriteMode := by unfold Statement; decide
theorem cmdWriteRom : Statement .cmdWriteRom := by unfold Statement; decide
theorem rptWaiting : Statement .rptWaiting := BitVec.isLt _
theorem rptIdentifier (data : BitVec 64) : Statement (.rptIdentifier data) := BitVec.isLt _
theorem rptWriteProgress : Statement .rptWriteProgress := BitVec.isLt _
theorem rptWriteComplete : Statement .rptWriteComplete := BitVec.isLt _
theorem cplNone : Statement .cplNone := by unfold Statement; decide
theorem cplNoDevice : Statement .cplNoDevice := by unfold Statement; decide
theorem cplReadDone : Statement .cplReadDone := by unfold Statement; decide
theorem cplWriteDone : Statement .cplWriteDone := by unfold Statement; decide
theorem cplUserCancel : Statement .cplUserCancel := by unfold Statement; decide
theorem cplLoaded : Statement .cplLoaded := by unfold Statement; decide
theorem uIdle : Statement .uIdle := by unfold Statement; decide
theorem uPRst : Statement .uPRst := by unfold Statement; decide
theorem uPNodev : Statement .uPNodev := by unfold Statement; decide
theorem uRCmd : Statement .uRCmd := by unfold Statement; decide
theorem uRReq : Statement .uRReq := by unfold Statement; decide
theorem uRData : Statement .uRData := by unfold Statement; decide
theorem uRRpt : Statement .uRRpt := by unfold Statement; decide
theorem uWProg : Statement .uWProg := by unfold Statement; decide
theorem uWRst1 : Statement .uWRst1 := by unfold Statement; decide
theorem uWSkip : Statement .uWSkip := by unfold Statement; decide
theorem uWSettle : Statement .uWSettle := by unfold Statement; decide
theorem uWEnter : Statement .uWEnter := by unfold Statement; decide
theorem uWRst2 : Statement .uWRst2 := by unfold Statement; decide
theorem uWCmd : Statement .uWCmd := by unfold Statement; decide
theorem uWBdly : Statement .uWBdly := by unfold Statement; decide
theorem uWBit : Statement .uWBit := by unfold Statement; decide
theorem uWRst3 : Statement .uWRst3 := by unfold Statement; decide
theorem uWExit : Statement .uWExit := by unfold Statement; decide
theorem uWRst4 : Statement .uWRst4 := by unfold Statement; decide
theorem uWDone : Statement .uWDone := by unfold Statement; decide

end Sys2Proof.Laws.EncodingFits
end

