-- ==== Sys2Proof/Laws/Step.lean ====
section
/-! SUPPORT. What one micro-step, and so one step, can do, said once: every later invariant is a case analysis of
`StepTo`. -/

namespace Sys2Proof.Laws

open Sys2Proof.Machine

/-- The micro-steps that make one exchange and only go on: where, the request word, where to. -/
def plainExchanges : List (MicroStep × TrWord × MicroStep) :=
  [(.rCmd, 0x233#11, .rReq), (.wRst1, 0x000#11, .wSkip), (.wSkip, 0x100#11, .wSettle),
   (.wSettle, 0x514#11, .wEnter), (.wEnter, 0x2D1#11, .wRst2), (.wRst2, 0x000#11, .wCmd)] ++
  [(.wBdly, 0x519#11, .wBit), (.wRst3, 0x000#11, .wExit), (.wExit, 0x2D1#11, .wRst4), (.wRst4, 0x000#11, .wDone)]

/-- The request word of the payload bit in hand. -/
def bitRequest (s : State) : TrWord := trWord .writeBit (bitArg (payloadBit s.idBuf s.byte s.bit))

/-- A payload bit is due no beats. -/
theorem beatsDue_bitRequest (s : State) : beatsDue (bitRequest s) = 0 := by simp [bitRequest]

/-- All a micro-step can do: one constructor for each thing, guards included. -/
inductive StepTo (s : State) : State → Prop where
  /-- it waits: the other side offers nothing -/
  | wait : StepTo s s
  /-- a `LOAD` is taken -/
  | load (w rest) : s.upc = .idle → s.cmds = w :: rest → hcOp w = true →
      StepTo s { s with
        idBuf := idOfValue (hcPayload w), cmds := rest, res := .loaded, st := .idle, upc := .idle
        trace := s.trace ++ [.command w, .completion 5#3] }
  /-- a cancelled `POLL` is taken -/
  | cancel (w rest) : s.upc = .idle → s.cmds = w :: rest → hcOp w = false → hcCancel w = true →
      StepTo s { s with
        cmds := rest, res := .userCancel, st := .idle, upc := .idle
        trace := s.trace ++ [.command w, .completion 4#3] }
  /-- a `POLL` is taken -/
  | poll (w rest) : s.upc = .idle → s.cmds = w :: rest → hcOp w = false → hcCancel w = false →
      StepTo s { s with cmds := rest, sel := hcSelect w, upc := .pRst, trace := s.trace ++ [.command w] }
  /-- the presence check finds nothing -/
  | noDevice (r rest) : s.upc = .pRst → s.replies = r :: rest → presence r.rdata = false →
      StepTo s { s with
        replies := rest, owed := [], trace := s.trace ++ [.exchange 0x000#11 r.rdata], upc := .pNodev }
  /-- the presence check starts a Read -/
  | dispatchRead (r rest) : s.upc = .pRst → s.replies = r :: rest → presence r.rdata = true → s.sel = false →
      StepTo s { s with
        replies := rest, owed := [], trace := s.trace ++ [.exchange 0x000#11 r.rdata]
        st := .reading, upc := .rCmd }
  /-- the presence check starts a Write -/
  | dispatchWrite (r rest) : s.upc = .pRst → s.replies = r :: rest → presence r.rdata = true → s.sel = true →
      StepTo s { s with
        replies := rest, owed := [], trace := s.trace ++ [.exchange 0x000#11 r.rdata]
        st := .writing, upc := .wProg }
  /-- one exchange, and on to the next micro-step -/
  | plainExchange (u w v r rest) : (u, w, v) ∈ plainExchanges → s.upc = u → s.replies = r :: rest →
      StepTo s { s with replies := rest, owed := [], trace := s.trace ++ [.exchange w r.rdata], upc := v }
  /-- the eight bytes are asked for -/
  | readRequest (r rest) : s.upc = .rReq → s.replies = r :: rest →
      StepTo s { s with
        replies := rest, owed := r.beats.take 8, trace := s.trace ++ [.exchange 0x408#11 r.rdata]
        byte := 0#3, upc := .rData }
  /-- the write command, and the bit loop begins -/
  | writeCommand (r rest) : s.upc = .wCmd → s.replies = r :: rest →
      StepTo s { s with
        replies := rest, owed := [], trace := s.trace ++ [.exchange 0x2D5#11 r.rdata]
        byte := 0#3, bit := 0#3, upc := .wBdly }
  /-- a beat but the last -/
  | beat (d rest) : s.upc = .rData → s.owed = d :: rest → s.byte ≠ 7#3 →
      StepTo s { s with
        owed := rest, trace := s.trace ++ [.beat d], idBuf := idSet s.idBuf s.byte d, byte := s.byte + 1#3 }
  /-- the last beat -/
  | lastBeat (d rest) : s.upc = .rData → s.owed = d :: rest → s.byte = 7#3 →
      StepTo s { s with
        owed := rest, trace := s.trace ++ [.beat d], idBuf := idSet s.idBuf s.byte d, upc := .rRpt }
  /-- a bit but the last of its byte -/
  | bit (r rest) : s.upc = .wBit → s.replies = r :: rest → s.bit ≠ 7#3 →
      StepTo s { s with
        replies := rest, owed := [], trace := s.trace ++ [.exchange (bitRequest s) r.rdata]
        bit := s.bit + 1#3, upc := .wBdly }
  /-- the last bit of a byte but the last -/
  | lastBitOfByte (r rest) : s.upc = .wBit → s.replies = r :: rest → s.bit = 7#3 → s.byte ≠ 7#3 →
      StepTo s { s with
        replies := rest, owed := [], trace := s.trace ++ [.exchange (bitRequest s) r.rdata]
        byte := s.byte + 1#3, bit := 0#3, upc := .wBdly }
  /-- the last bit -/
  | lastBit (r rest) : s.upc = .wBit → s.replies = r :: rest → s.bit = 7#3 → s.byte = 7#3 →
      StepTo s { s with
        replies := rest, owed := [], trace := s.trace ++ [.exchange (bitRequest s) r.rdata], upc := .wRst3 }
  /-- the report that no device is there -/
  | reportNoDevice (n) : s.upc = .pNodev → s.acks = n + 1 →
      StepTo s { s with
        acks := n, trace := s.trace ++ [.report 0#66, .completion 1#3], res := .noDevice, st := .idle, upc := .idle }
  /-- the identifier is reported -/
  | reportIdentifier (n) : s.upc = .rRpt → s.acks = n + 1 →
      StepTo s { s with
        acks := n, trace := s.trace ++ [.report (identifierReport s.idBuf), .completion 2#3]
        res := .readDone, st := .idle, upc := .idle }
  /-- the report that a Write begins -/
  | reportProgress (n) : s.upc = .wProg → s.acks = n + 1 →
      StepTo s { s with acks := n, trace := s.trace ++ [.report 2#66], upc := .wRst1 }
  /-- the report that a Write is complete -/
  | reportComplete (n) : s.upc = .wDone → s.acks = n + 1 →
      StepTo s { s with
        acks := n, trace := s.trace ++ [.report 3#66, .completion 3#3], res := .writeDone, st := .idle, upc := .idle }

/-- What `U_IDLE` can do. -/
theorem stepTo_of_execUIdle {s t : State} (h : s.upc = .idle) (ht : execUIdle s = .next t) : StepTo s t := by
  unfold execUIdle at ht
  cases hc : s.cmds with
  | nil => simp [hc] at ht; subst ht; exact .wait
  | cons w rest =>
    simp only [hc, takeCommand_ready _ _ h, Host.Outcome.next.injEq, commandTaken] at ht
    cases ho : hcOp w with
    | true =>
      simp [ho, loadTaken, State.loadId, complete, State.record, Completion.code] at ht
      have := StepTo.load w rest h hc ho
      subst ht; simpa [hc] using this
    | false =>
      cases hca : hcCancel w with
      | true =>
        simp [ho, hca, pollTaken, raise, complete, State.record, Completion.code] at ht
        have := StepTo.cancel w rest h hc ho hca
        subst ht; simpa [hc] using this
      | false =>
        simp [ho, hca, pollTaken, State.setSel, State.goto] at ht
        have := StepTo.poll w rest h hc ho hca
        subst ht; simpa [hc] using this

/-- What the micro-step at `UPC` can do. -/
theorem stepTo_of_microStep {s t : State} (ht : microStep s = .next t) : StepTo s t := by
  unfold microStep at ht
  cases hu : s.upc <;> simp only [hu] at ht
  case idle => exact stepTo_of_execUIdle hu ht
  case pRst =>
    simp only [execUPRst, Host.Outcome.next.injEq] at ht
    cases hr : s.replies with
    | nil => rw [← ht, exchange_nil _ _ hr]; exact .wait
    | cons r rest =>
      rw [← ht, exchange_plain _ rfl hr]
      rcases dispatchPoll_cases r.rdata
        { s with replies := rest, owed := [], trace := s.trace ++ [.exchange (trWord .reset 0#8) r.rdata] }
        with ⟨a, b⟩ | ⟨a, c, b⟩ | ⟨a, c, b⟩ <;> rw [b]
      · exact .noDevice r rest hu hr a
      · exact .dispatchRead r rest hu hr a c
      · exact .dispatchWrite r rest hu hr a c
  case pNodev =>
    simp only [execUPNodev, Host.Outcome.next.injEq] at ht
    rcases sendReport_cases (rpWord .waiting 0#64) (complete .noDevice) s with ⟨h1, h2⟩ | ⟨n, h1, h2⟩ <;> rw [← ht, h2]
    · exact .wait
    · simpa [complete, State.record, Completion.code, rpWord, Report.code] using StepTo.reportNoDevice n hu h1
  case rRpt =>
    simp only [execURRpt, Host.Outcome.next.injEq] at ht
    rcases sendReport_cases (identifierReport s.idBuf) (complete .readDone) s with ⟨h1, h2⟩ | ⟨n, h1, h2⟩ <;>
      rw [← ht, h2]
    · exact .wait
    · simpa [complete, State.record, Completion.code] using StepTo.reportIdentifier n hu h1
  case wDone =>
    simp only [execUWDone, Host.Outcome.next.injEq] at ht
    rcases sendReport_cases (rpWord .writeComplete 0#64) (complete .writeDone) s with ⟨h1, h2⟩ | ⟨n, h1, h2⟩ <;>
      rw [← ht, h2]
    · exact .wait
    · simpa [complete, State.record, Completion.code, rpWord, Report.code] using StepTo.reportComplete n hu h1
  case wProg =>
    simp only [execUWProg, Host.Outcome.next.injEq] at ht
    rcases sendReport_cases (rpWord .writeProgress 0#64) (fun t => t.goto .wRst1) s with ⟨h1, h2⟩ | ⟨n, h1, h2⟩ <;>
      rw [← ht, h2]
    · exact .wait
    · exact .reportProgress n hu h1
  case rData =>
    simp only [execURData, Host.Outcome.next.injEq] at ht
    rcases takeBeat_cases storeBeat s with ⟨h1, h2⟩ | ⟨d, rest, h1, h2⟩ <;> rw [← ht, h2]
    · exact .wait
    · rcases storeBeat_cases d { s with owed := rest, trace := s.trace ++ [.beat d] } with ⟨a, b⟩ | ⟨a, b⟩ <;> rw [b]
      · exact .lastBeat d rest hu h1 a
      · exact .beat d rest hu h1 a
  case wBit =>
    simp only [execUWBit, Host.Outcome.next.injEq] at ht
    rw [show trWord .writeBit (bitArg (payloadBit s.idBuf s.byte s.bit)) = bitRequest s from rfl] at ht
    cases hr : s.replies with
    | nil => rw [← ht, exchange_nil _ _ hr]; exact .wait
    | cons r rest =>
      rw [← ht, exchange_plain _ (beatsDue_bitRequest s) hr]
      rcases nextBit_cases
        { s with replies := rest, owed := [], trace := s.trace ++ [.exchange (bitRequest s) r.rdata] }
        with ⟨a, b⟩ | ⟨a, c, b⟩ | ⟨a, c, b⟩ <;> rw [b]
      · exact .bit r rest hu hr a
      · exact .lastBitOfByte r rest hu hr a c
      · exact .lastBit r rest hu hr a c
  case rReq =>
    simp only [execURReq, Host.Outcome.next.injEq] at ht
    cases hr : s.replies with
    | nil => rw [← ht, exchange_nil _ _ hr]; exact .wait
    | cons r rest => rw [← ht, exchange_cons _ _ hr]; exact .readRequest r rest hu hr
  case wCmd =>
    simp only [execUWCmd, Host.Outcome.next.injEq] at ht
    cases hr : s.replies with
    | nil => rw [← ht, exchange_nil _ _ hr]; exact .wait
    | cons r rest => rw [← ht, exchange_plain _ rfl hr]; exact .writeCommand r rest hu hr
  all_goals
    simp only [execURCmd, execUWRst1, execUWSkip, execUWSettle, execUWEnter, execUWRst2, execUWBdly, execUWRst3,
      execUWExit, execUWRst4, Host.Outcome.next.injEq] at ht
    cases hr : s.replies with
    | nil => rw [← ht, exchange_nil _ _ hr]; exact .wait
    | cons r rest =>
      rw [← ht, exchange_plain _ rfl hr]
      exact StepTo.plainExchange _ _ _ r rest (by simp [plainExchanges]; decide) hu hr

/-- A host command word is put together from its fields (R71). -/
theorem hcWord_fields (w : HcWord) : hcWord (hcOp w) (hcSelect w) (hcCancel w) (hcPayload w) = w := by
  apply BitVec.eq_of_getLsbD_eq
  intro i hi
  unfold hcWord hcOp hcSelect hcCancel hcPayload
  simp only [BitVec.getLsbD_append, BitVec.getLsbD_ofBool, BitVec.getLsbD_extractLsb']
  rcases Nat.lt_or_ge i 3 with h | h
  · interval_cases i <;> simp
  · have h1 : ¬ i < 1 := by omega
    have h2 : ¬ i - 1 < 1 := by omega
    have h3 : ¬ i - 1 - 1 < 1 := by omega
    have h4 : i - 1 - 1 - 1 < 64 := by omega
    simp [h1, h2, h3, h4]
    congr 1; omega

/-- The fetched instruction does what the micro-step at `UPC` does. -/
theorem exec_fetch (s : State) : exec (fetch s) s = microStep s := by
  unfold fetch microStep
  cases hu : s.upc <;> try rfl
  cases hc : s.cmds with
  | nil => simp [instrAt, exec]
  | cons w rest =>
    have hw := hcWord_fields w
    simp only [execUIdle, hc]
    unfold decodeHc
    cases ha : hcOp w <;> cases hb : hcSelect w <;> cases hd : hcCancel w <;> rw [ha, hb, hd] at hw <;>
      simp only [if_true, if_false, Bool.false_eq_true, exec, execLoad, execPollC, execPollR, execPollW] <;>
      rw [hw] <;> simp [takeCommand, ready, hu, commandTaken, ha, hb, hd]

/-- What a step can do: a reset, or what the micro-step can do. -/
theorem step_cases {s t : State} (ht : step s = .next t) :
    (s.rstNow = true ∧ t = resetEngine s.tick) ∨ (s.rstNow = false ∧ StepTo s.tick t) := by
  unfold step at ht
  cases hr : s.rstNow with
  | true => simp [hr] at ht; exact .inl ⟨rfl, ht.symm⟩
  | false =>
    rw [hr, exec_fetch] at ht
    exact .inr ⟨rfl, stepTo_of_microStep ht⟩

/-- One micro-step of a routine that is not over. -/
theorem runRoutine_succ {n : Nat} {s t : State} (hu : s.upc ≠ .idle) (h : microStep s = .next t) :
    runRoutine (n + 1) s = runRoutine n t := by
  simp [runRoutine, hu, h]

/-- A routine that is over takes no further micro-step. -/
theorem runRoutine_idle {n : Nat} {s : State} (hu : s.upc = .idle) : runRoutine n s = .next s := by
  cases n <;> simp [runRoutine, hu]

/-- One step of a run of a machine. -/
theorem Core_run_succ (M : Host.Core) {n : Nat} {s t : M.State} (h : M.step s = .next t) :
    M.run (n + 1) s = M.run n t := by
  simp [Host.Core.run, h]

/-- One step of a run of the engine. -/
theorem core_run_succ {n : Nat} {s t : State} (h : step s = .next t) :
    Sys2Proof.core.run (n + 1) s = Sys2Proof.core.run n t :=
  Core_run_succ Sys2Proof.core h

end Sys2Proof.Laws
end

