-- ==== Sys2Proof/WellFormed.lean ====
section
/-! DEFINITION. When an instruction is well formed: its argument is one the engine may issue
(spec/30_encoding.md R72 and R77). The forms whose every operand value is legal (R79: every host command
word is legal, every report code is used) have no check; reserved fields are unrepresentable (Syntax.lean). -/

namespace Sys2Proof

/-- The `arg` of a request is one of those rule R72 lists: `WRITEBYTE` sends one of the three device command
bytes (R76), `READBYTES` asks for 8 bytes, `DELAY` waits 20 or 25 ms. -/
def Instr.wf : Instr → Bool
  | .writeByte arg => arg == Config.cmdReadRom || arg == Config.cmdWriteMode || arg == Config.cmdWriteRom
  | .readBytes count => count == Config.readCount
  | .delay ms => ms == Config.tSettleMs || ms == Config.tBitMs
  | .pollC _ _ | .pollR _ | .pollW _ | .load _ _ _ => true
  | .readId | .writeId => true
  | .reset | .skipRom | .writeBit _ => true
  | .resetWord | .skipRomWord | .wbReadRom | .wbWriteMode | .wbWriteRom => true
  | .wbit0 | .wbit1 | .rb8 | .dly20 | .dly25 => true
  | .cmdReadRom | .cmdWriteMode | .cmdWriteRom => true
  | .rptWaiting | .rptIdentifier _ | .rptWriteProgress | .rptWriteComplete => true
  | .cplNone | .cplNoDevice | .cplReadDone | .cplWriteDone | .cplUserCancel | .cplLoaded => true
  | .uIdle | .uPRst | .uPNodev | .uRCmd | .uRReq | .uRData | .uRRpt => true
  | .uWProg | .uWRst1 | .uWSkip | .uWSettle | .uWEnter | .uWRst2 | .uWCmd => true
  | .uWBdly | .uWBit | .uWRst3 | .uWExit | .uWRst4 | .uWDone => true

end Sys2Proof
end

