-- ==== Sys2Proof/Tests/Slice0.lean ====
section
/-! SUPPORT. Tests of single words and single steps, their expected results taken from spec/30_encoding.md and
spec/95_test_vectors.md, and a witness for the hypotheses of every statement that has some (one for each clause, at a
boundary value). -/

namespace Sys2Proof.Tests

open Sys2Proof Sys2Proof.Machine

/-! ## Helpers -/

/-- `01 23 45 67 89 AB CD EF`. -/
def idA : IdBuf := #v[0x01#8, 0x23#8, 0x45#8, 0x67#8, 0x89#8, 0xAB#8, 0xCD#8, 0xEF#8]

/-- The engine at a micro-step, one answer `0xFF`, at `U_R_DATA` one beat, and one acknowledgement to come. -/
def stateAt (u : MicroStep) : State where
  idBuf := idA
  st := protoAt u
  upc := u
  byte := 0#3
  bit := 0#3
  sel := false
  res := .none
  rst := []
  cmds := []
  replies := [⟨0xFF#8, []⟩]
  owed := if u = .rData then [0xFF#8] else []
  acks := 1
  trace := []

/-- The state an outcome goes on with. -/
def nextOf (o : Host.Outcome State Fault Refusal) : Option State :=
  match o with
  | .next s => some s
  | .fault _ => none
  | .refused _ => none

/-- What a test looks at: the registers `ST UPC BYTE BIT SEL RES ID` in this order. -/
structure Regs where
  st : Proto
  upc : MicroStep
  byte : BitVec 3
  bit : BitVec 3
  sel : Bool
  res : Completion
  ident : BitVec 64
  deriving DecidableEq, Repr

/-- The registers an outcome goes on with. -/
def regs (o : Host.Outcome State Fault Refusal) : Option Regs :=
  (nextOf o).map (fun s => ⟨s.st, s.upc, s.byte, s.bit, s.sel, s.res, idValue s.idBuf⟩)

/-- What a test looks at: the messages so far. -/
def traceOf (o : Host.Outcome State Fault Refusal) : Option (List Event) := (nextOf o).map (·.trace)

/-! ## WellFormed: each check refuses an ill-formed term and lets the legal ones pass -/

/-- A skip-ROM is never a `WRITEBYTE` (vector 2.2's negative word `0x2CC`). -/
theorem test_wf_refuses_writebyte_cc : Instr.wf (.writeByte 0xCC#8) = false := by decide

/-- Vector 2.2's negative word `0x407`. -/
theorem test_wf_refuses_readbytes_7 : Instr.wf (.readBytes 7#8) = false := by decide

/-- Vector 2.2's negative word `0x515`. -/
theorem test_wf_refuses_delay_21 : Instr.wf (.delay 21#8) = false := by decide

/-- The arguments of R72 pass. -/
theorem test_wf_accepts_issued :
    [Instr.writeByte 0x33#8, .writeByte 0xD1#8, .writeByte 0xD5#8, .readBytes 8#8, .delay 20#8, .delay 25#8].all
      Instr.wf = true := by decide

/-! ## Decoding: a word of every constructor, written out from the spec's formats -/

/-- Host command words (R71, R78; vector 2.1). -/
theorem test_decode_host_commands :
    decodeWord .hc 0b100 = .instr (.pollC false 0#64) ∧
    decodeWord .hc 0b110 = .instr (.pollC true 0#64) ∧
    decodeWord .hc 0b000 = .instr (.pollR 0#64) ∧
    decodeWord .hc 0b010 = .instr (.pollW 0#64) ∧
    decodeWord .hc 0x7FFFFFFFFFFFFFFFA = .instr (.pollW 0xFFFFFFFFFFFFFFFF#64) ∧
    decodeWord .hc 0x77E6D5C4B3A291809 = .instr (.load false false 0xEFCDAB8967452301#64) ∧
    decodeWord .hc 0x40000000000000001 = .instr (.load false false 0x8000000000000000#64) := by decide

/-- Routines, entered at `UPC` 3 and 7 (R120, R130). -/
theorem test_decode_routines :
    decodeWord .routine 0b00011 = .instr .readId ∧ decodeWord .routine 0b00111 = .instr .writeId := by decide

/-- Requests: `req` in bits 10 to 8, `arg` in bits 7 to 0 (R72). -/
theorem test_decode_requests :
    decodeWord .tr 0b00000000000 = .instr .reset ∧
    decodeWord .tr 0b00100000000 = .instr .skipRom ∧
    decodeWord .tr 0b01000110011 = .instr (.writeByte 0x33#8) ∧
    decodeWord .tr 0b01100000000 = .instr (.writeBit false) ∧
    decodeWord .tr 0b01100000001 = .instr (.writeBit true) ∧
    decodeWord .tr 0b10000001000 = .instr (.readBytes 8#8) ∧
    decodeWord .tr 0b10100010100 = .instr (.delay 20#8) := by decide

/-- The 10 request words the engine can issue (vector 2.2). -/
theorem test_decode_issued :
    decodeWord .trIssued 0b00000000000 = .instr .resetWord ∧
    decodeWord .trIssued 0b00100000000 = .instr .skipRomWord ∧
    decodeWord .trIssued 0b01000110011 = .instr .wbReadRom ∧
    decodeWord .trIssued 0b01011010001 = .instr .wbWriteMode ∧
    decodeWord .trIssued 0b01011010101 = .instr .wbWriteRom ∧
    decodeWord .trIssued 0b01100000000 = .instr .wbit0 ∧
    decodeWord .trIssued 0b01100000001 = .instr .wbit1 ∧
    decodeWord .trIssued 0b10000001000 = .instr .rb8 ∧
    decodeWord .trIssued 0b10100010100 = .instr .dly20 ∧
    decodeWord .trIssued 0b10100011001 = .instr .dly25 := by decide

/-- The three device command bytes (R76; S1). -/
theorem test_decode_commands :
    decodeWord .wc 0b00110011 = .instr .cmdReadRom ∧
    decodeWord .wc 0b11010001 = .instr .cmdWriteMode ∧
    decodeWord .wc 0b11010101 = .instr .cmdWriteRom := by decide

/-- Report words (R74; vector 2.4). -/
theorem test_decode_reports :
    decodeWord .rp 0b00 = .instr .rptWaiting ∧
    decodeWord .rp 0x274D0480003FB2805 = .instr (.rptIdentifier 0x9D34120000FECA01#64) ∧
    decodeWord .rp 0x20000000000000001 = .instr (.rptIdentifier 0x8000000000000000#64) ∧
    decodeWord .rp 0b10 = .instr .rptWriteProgress ∧
    decodeWord .rp 0b11 = .instr .rptWriteComplete := by decide

/-- Completion codes (R75; vector 2.5). -/
theorem test_decode_completions :
    decodeWord .cp 0b000 = .instr .cplNone ∧
    decodeWord .cp 0b001 = .instr .cplNoDevice ∧
    decodeWord .cp 0b010 = .instr .cplReadDone ∧
    decodeWord .cp 0b011 = .instr .cplWriteDone ∧
    decodeWord .cp 0b100 = .instr .cplUserCancel ∧
    decodeWord .cp 0b101 = .instr .cplLoaded := by decide

/-- Micro-steps 0 to 9 (R82). -/
theorem test_decode_micro_low :
    decodeWord .upc 0b00000 = .instr .uIdle ∧
    decodeWord .upc 0b00001 = .instr .uPRst ∧
    decodeWord .upc 0b00010 = .instr .uPNodev ∧
    decodeWord .upc 0b00011 = .instr .uRCmd ∧
    decodeWord .upc 0b00100 = .instr .uRReq ∧
    decodeWord .upc 0b00101 = .instr .uRData ∧
    decodeWord .upc 0b00110 = .instr .uRRpt ∧
    decodeWord .upc 0b00111 = .instr .uWProg ∧
    decodeWord .upc 0b01000 = .instr .uWRst1 ∧
    decodeWord .upc 0b01001 = .instr .uWSkip := by decide

/-- Micro-steps 10 to 19 (R82). -/
theorem test_decode_micro_high :
    decodeWord .upc 0b01010 = .instr .uWSettle ∧
    decodeWord .upc 0b01011 = .instr .uWEnter ∧
    decodeWord .upc 0b01100 = .instr .uWRst2 ∧
    decodeWord .upc 0b01101 = .instr .uWCmd ∧
    decodeWord .upc 0b01110 = .instr .uWBdly ∧
    decodeWord .upc 0b01111 = .instr .uWBit ∧
    decodeWord .upc 0b10000 = .instr .uWRst3 ∧
    decodeWord .upc 0b10001 = .instr .uWExit ∧
    decodeWord .upc 0b10010 = .instr .uWRst4 ∧
    decodeWord .upc 0b10011 = .instr .uWDone := by decide

/-- Words that must never appear in a trace (vector 2.2). -/
theorem test_reject_never_issued :
    [0x1CC, 0x2CC, 0x600, 0x700, 0x407, 0x409, 0x302, 0x515, 0x500].all
      (fun w => decodeWord .trIssued w == .rejected .neverIssued) = true := by decide

/-- What the general format rejects: an argument where there is none, a request code not in use, a word too wide. -/
theorem test_reject_requests :
    decodeWord .tr 0x1CC = .rejected .reservedArgument ∧
    decodeWord .tr 0x302 = .rejected .reservedArgument ∧
    decodeWord .tr 0x600 = .rejected .reservedRequest ∧
    decodeWord .tr 0x700 = .rejected .reservedRequest ∧
    decodeWord .tr 0x800 = .rejected .tooWide := by decide

/-- Codes and numbers never used (R79; vector 2.5). -/
theorem test_reject_codes :
    decodeWord .cp 0b110 = .rejected .reservedCompletion ∧ decodeWord .cp 0b111 = .rejected .reservedCompletion ∧
    decodeWord .upc 20 = .rejected .reservedMicroStep ∧ decodeWord .upc 31 = .rejected .reservedMicroStep ∧
    decodeWord .wc 0xCC = .rejected .notACommandByte ∧ decodeWord .rp 0b100 = .rejected .reservedReportData ∧
    decodeBytes .hc [0#8] = .rejected .wrongLength := by decide

/-- The encoder gives the words of vectors 2.1 and 2.4. -/
theorem test_encode_words :
    encode (.load true true 0xEFCDAB8967452301#64) = 0x77E6D5C4B3A29180F ∧
    encode (.rptIdentifier 0xEFCDAB8967452301#64) = 0x3BF36AE259D148C05 ∧
    encode (.rptIdentifier 0xFFFFFFFFFFFFFFFF#64) = 0x3FFFFFFFFFFFFFFFD := by decide

/-! ## The identifier buffer -/

/-- Vector 2.6. -/
theorem test_packing :
    idValue idA = 0xEFCDAB8967452301#64 ∧
    idValue (idOfValue 0x8000000000000000#64) = 0x8000000000000000#64 ∧
    idGet (idOfValue 0x8000000000000000#64) 7#3 = 0x80#8 ∧ idGet (idOfValue 0x80#64) 0#3 = 0x80#8 := by decide

/-- The eight cells of the memory view, address 0 first. -/
theorem test_memory_view :
    (stateAt .idle).memory =
      [(0, 0x01#8), (1, 0x23#8), (2, 0x45#8), (3, 0x67#8), (4, 0x89#8), (5, 0xAB#8), (6, 0xCD#8), (7, 0xEF#8)] ∧
    Memory.wf (stateAt .idle).memory = true := by decide

/-- Memories of another form are not well formed. -/
theorem test_memory_wf_refuses :
    Memory.wf [] = false ∧ Memory.wf [(1, 0#8), (0, 0#8)] = false := by decide

/-- Vector 2.8, rows `0x01`, `0x80`, `0xD1`: the arguments in the order sent. -/
theorem test_marshaler :
    (List.range 8).map (fun j => payloadBit #v[0x01#8, 0x80#8, 0xD1#8, 0#8, 0#8, 0#8, 0#8, 0#8] 0#3 (BitVec.ofNat 3 j)) =
      [false, true, true, true, true, true, true, true] ∧
    (List.range 8).map (fun j => payloadBit #v[0x01#8, 0x80#8, 0xD1#8, 0#8, 0#8, 0#8, 0#8, 0#8] 1#3 (BitVec.ofNat 3 j)) =
      [true, true, true, true, true, true, true, false] ∧
    (List.range 8).map (fun j => payloadBit #v[0x01#8, 0x80#8, 0xD1#8, 0#8, 0#8, 0#8, 0#8, 0#8] 2#3 (BitVec.ofNat 3 j)) =
      [false, true, true, true, false, true, false, false] := by decide

/-! ## Single steps -/

/-- Vector 2.10 row 7: `LOAD AA BB CC DD EE FF 00 11`. -/
theorem test_load :
    regs (step { stateAt .idle with cmds := [scriptLoad #v[0xAA#8, 0xBB#8, 0xCC#8, 0xDD#8, 0xEE#8, 0xFF#8, 0#8, 0x11#8]] }) =
      some ⟨.idle, .idle, 0#3, 0#3, false, .loaded, 0x1100FFEEDDCCBBAA#64⟩ := by decide

/-- Vector 2.10 row 2: a cancelled `POLL` leaves `SEL` as it was. -/
theorem test_cancel_over_select :
    regs (step { stateAt .idle with cmds := [scriptPoll true true] }) =
      some ⟨.idle, .idle, 0#3, 0#3, false, .userCancel, 0xEFCDAB8967452301#64⟩ ∧
    traceOf (step { stateAt .idle with cmds := [scriptPoll true true] }) =
      some [.command 6#67, .completion 4#3] := by decide

/-- Vector 2.7 step 1 and vector 2.10 row 4. -/
theorem test_poll_samples_select :
    regs (step { stateAt .idle with cmds := [scriptPoll true false] }) =
      some ⟨.idle, .pRst, 0#3, 0#3, true, .none, 0xEFCDAB8967452301#64⟩ := by decide

/-- Vector 2.3: of the answer to the presence check only bit 0 counts. -/
theorem test_presence_bit_zero_only :
    (regs (step { stateAt .pRst with replies := [⟨0xFE#8, []⟩] })).map (·.upc) = some .pNodev ∧
    (regs (step { stateAt .pRst with replies := [⟨0x01#8, []⟩] })).map (·.upc) = some .rCmd ∧
    (regs (step { stateAt .pRst with replies := [⟨0xFF#8, []⟩], sel := true })).map (·.upc) = some .wProg := by decide

/-- Vector 2.10 row 3: no device. -/
theorem test_no_device :
    regs (step (stateAt .pNodev)) = some ⟨.idle, .idle, 0#3, 0#3, false, .noDevice, 0xEFCDAB8967452301#64⟩ ∧
    traceOf (step (stateAt .pNodev)) = some [.report 0#66, .completion 1#3] := by decide

/-- Vector 2.7 steps 3 and 4; the counter is cleared. -/
theorem test_read_request :
    traceOf (step (stateAt .rCmd)) = some [.exchange 0x233#11 0xFF#8] ∧
    regs (step { stateAt .rReq with byte := 5#3 }) =
      some ⟨.reading, .rData, 0#3, 0#3, false, .none, 0xEFCDAB8967452301#64⟩ := by decide

/-- Vector 2.7 steps 5 and 12: the first beat and the last; `BYTE` does not wrap. -/
theorem test_beats :
    regs (step { stateAt .rData with owed := [0xA7#8] }) =
      some ⟨.reading, .rData, 1#3, 0#3, false, .none, 0xEFCDAB89674523A7#64⟩ ∧
    regs (step { stateAt .rData with owed := [0xA7#8], byte := 7#3 }) =
      some ⟨.reading, .rRpt, 7#3, 0#3, false, .none, 0xA7CDAB8967452301#64⟩ := by decide

/-- Vector 2.7 step 13. -/
theorem test_identifier_report :
    traceOf (step (stateAt .rRpt)) = some [.report 0x3BF36AE259D148C05#66, .completion 2#3] := by decide

/-- Vector 2.9 requests 3, 4 and 6. -/
theorem test_write_preparation :
    traceOf (step (stateAt .wSettle)) = some [.exchange 0x514#11 0xFF#8] ∧
    traceOf (step (stateAt .wEnter)) = some [.exchange 0x2D1#11 0xFF#8] ∧
    regs (step { stateAt .wCmd with byte := 7#3, bit := 7#3 }) =
      some ⟨.writing, .wBdly, 0#3, 0#3, false, .none, 0xEFCDAB8967452301#64⟩ := by decide

/-- Vector 2.9 requests 8, 22 and 134: the first bit, the last of byte 0, the last of all. -/
theorem test_bit_loop :
    traceOf (step (stateAt .wBit)) = some [.exchange 0x300#11 0xFF#8] ∧
    regs (step (stateAt .wBit)) = some ⟨.writing, .wBdly, 0#3, 1#3, false, .none, 0xEFCDAB8967452301#64⟩ ∧
    regs (step { stateAt .wBit with bit := 7#3 }) =
      some ⟨.writing, .wBdly, 1#3, 0#3, false, .none, 0xEFCDAB8967452301#64⟩ ∧
    regs (step { stateAt .wBit with bit := 7#3, byte := 7#3 }) =
      some ⟨.writing, .wRst3, 7#3, 7#3, false, .none, 0xEFCDAB8967452301#64⟩ := by decide

/-- Vector 2.9, the end. -/
theorem test_write_complete :
    traceOf (step (stateAt .wDone)) = some [.report 3#66, .completion 3#3] := by decide

/-- Vector 2.12 row 3: reset in the middle of a Write sends nothing. -/
theorem test_reset_in_a_write :
    (regs (step { stateAt .wBdly with byte := 2#3, bit := 5#3, rst := [true] })).map
      (fun r => (r.st, r.upc, r.byte, r.bit, r.res)) = some (.idle, .idle, 0#3, 0#3, .none) ∧
    (regs (step { stateAt .wBdly with sel := true, rst := [true] })).map (·.sel) = some false ∧
    traceOf (step { stateAt .wBdly with byte := 2#3, bit := 5#3, rst := [true] }) = some [] := by decide

/-- Vector 2.12 row 2: the beats still owed when `rst` comes are never taken. -/
theorem test_reset_in_a_read :
    (nextOf (step { stateAt .rData with byte := 3#3, owed := [1#8, 2#8, 3#8, 4#8, 5#8], rst := [true] })).map
      (fun s => (s.upc, s.owed, s.trace)) = some (.idle, [], []) := by decide

/-- R101 and D20: of the beats in a reply only the eight asked for are owed; those of a reply to another request never. -/
theorem test_surplus_beats_are_not_owed :
    (nextOf (step { stateAt .rReq with replies := [⟨0#8, List.replicate 9 1#8⟩] })).map (·.owed.length) = some 8 ∧
    (nextOf (step { stateAt .rCmd with replies := [⟨0#8, [1#8]⟩] })).map (·.owed.length) = some 0 := by decide

/-- Vector 2.13 row 2: a `LOAD` offered while a beat is stored is not taken. -/
theorem test_busy_engine_takes_no_command :
    (nextOf (step { stateAt .rData with cmds := [1#67] })).map (fun s => (s.cmds, s.trace)) =
      some ([1#67], [.beat 0xFF#8]) := by decide

/-- A routine's row runs from its entry: `WRITE_ID` with one report taken and no answer stands at its first request. -/
theorem test_routine_waits :
    regs (exec .writeId { stateAt .idle with replies := [] }) =
      some ⟨.writing, .wRst1, 0#3, 0#3, false, .none, 0xEFCDAB8967452301#64⟩ := by decide

/-! ## Witnesses: concrete inputs that meet the hypotheses of the statements -/

theorem witness_EncodeOfDecode : decodeWord .tr 0x233 = .instr (.writeByte 0x33#8) := by decide

theorem witness_ReservedEncodingsRejected :
    6#3 ≤ trReq 0x600#11 ∧ (0x7FF#11 : TrWord) ∉ issuedWords ∧ (0x302#11 : TrWord) ∉ issuedWords ∧
    6#3 ≤ (6#3 : CpWord) ∧ 20#5 ≤ (20#5 : BitVec 5) ∧
    (0xCC#8 : Byte) ≠ 0x33#8 ∧ (0xCC#8 : Byte) ≠ 0xD1#8 ∧ (0xCC#8 : Byte) ≠ 0xD5#8 := by decide

theorem witness_HostCommandForms :
    (0x9#67 : HcWord).getLsbD 0 = true ∧
    ((4#67 : HcWord).getLsbD 0 = false ∧ (4#67 : HcWord).getLsbD 2 = true) ∧
    ((0#67 : HcWord).getLsbD 0 = false ∧ (0#67 : HcWord).getLsbD 2 = false ∧ (0#67 : HcWord).getLsbD 1 = false) ∧
    ((2#67 : HcWord).getLsbD 0 = false ∧ (2#67 : HcWord).getLsbD 2 = false ∧ (2#67 : HcWord).getLsbD 1 = true) := by
  decide

theorem witness_RstTakesEffectFromAnyState :
    { stateAt .wBdly with rst := [true, false] }.rst = true :: [false] := by decide

theorem witness_StepRunsTheFetchedInstruction :
    ({ stateAt .idle with cmds := [2#67] }.rstNow = false ∧ { stateAt .idle with cmds := [2#67] }.upc = .idle ∧
      { stateAt .idle with cmds := [2#67] }.cmds = 2#67 :: [] ∧ decodeWord .hc (2#67).toNat = .instr (.pollW 0#64)) ∧
    ((stateAt .idle).rstNow = false ∧ (stateAt .idle).upc = .idle ∧ (stateAt .idle).cmds = []) ∧
    ((stateAt .wDone).rstNow = false ∧ (stateAt .wDone).upc ≠ .idle ∧
      decodeWord .upc (stateAt .wDone).upc.code.toNat = .instr .uWDone) := by decide

/-- For `PollTaken` and `LoadTaken`. -/
theorem witness_PollTaken_LoadTaken : (stateAt .idle).upc = .idle := by decide

theorem witness_BusyEngineTakesNoCommand : (stateAt .pRst).upc ≠ .idle := by decide

theorem witness_IdleTakesTheOfferedCommand :
    { stateAt .idle with cmds := [9#67] }.upc = .idle ∧ { stateAt .idle with cmds := [9#67] }.cmds = 9#67 :: [] ∧
    (9#67 : HcWord).getLsbD 0 = true ∧
    ((6#67 : HcWord).getLsbD 0 = false ∧ (6#67 : HcWord).getLsbD 2 = true) ∧
    ((2#67 : HcWord).getLsbD 0 = false ∧ (2#67 : HcWord).getLsbD 2 = false) := by decide

theorem witness_BusyEngineIgnoresTheCommandChannel :
    (stateAt .wBit).upc ≠ .idle ∧ (stateAt .wBit).rstNow = false ∧ (nextOf (step (stateAt .wBit))).isSome := by decide

/-- The state of the `POLL` witnesses: ready, the word offered, the answers to come. -/
def polled (w : HcWord) (answers : List Reply) (acks : Nat) : State :=
  { stateAt .idle with cmds := [w], replies := answers, acks := acks }

theorem witness_PollPriority :
    ((polled 6#67 [⟨0xFF#8, []⟩] 0).upc = .idle ∧ (polled 6#67 [⟨0xFF#8, []⟩] 0).st = .idle ∧ (polled 6#67 [⟨0xFF#8, []⟩] 0).rst = [] ∧
      (polled 6#67 [⟨0xFF#8, []⟩] 0).cmds = 6#67 :: [] ∧ (polled 6#67 [⟨0xFF#8, []⟩] 0).replies = ⟨0xFF#8, []⟩ :: [] ∧
      (6#67 : HcWord).getLsbD 0 = false ∧ (6#67 : HcWord).getLsbD 2 = true) ∧
    ((polled 2#67 [⟨0xFE#8, []⟩] 0).cmds = 2#67 :: [] ∧ (polled 2#67 [⟨0xFE#8, []⟩] 0).replies = ⟨0xFE#8, []⟩ :: [] ∧
      (2#67 : HcWord).getLsbD 0 = false ∧ (2#67 : HcWord).getLsbD 2 = false ∧ (0xFE#8 : TsWord).getLsbD 0 = false) ∧
    ((0#67 : HcWord).getLsbD 0 = false ∧ (0#67 : HcWord).getLsbD 2 = false ∧ (0xFF#8 : TsWord).getLsbD 0 = true ∧
      (0#67 : HcWord).getLsbD 1 = false) ∧
    ((2#67 : HcWord).getLsbD 0 = false ∧ (2#67 : HcWord).getLsbD 2 = false ∧ (0x01#8 : TsWord).getLsbD 0 = true ∧
      (2#67 : HcWord).getLsbD 1 = true) := by decide

theorem witness_PresenceCheckDispatches :
    ({ stateAt .pRst with replies := [⟨0xFE#8, []⟩] }.replies = ⟨0xFE#8, []⟩ :: [] ∧ (0xFE#8 : TsWord).getLsbD 0 = false) ∧
    ((stateAt .pRst).replies = ⟨0xFF#8, []⟩ :: [] ∧ (0xFF#8 : TsWord).getLsbD 0 = true ∧ (stateAt .pRst).sel = false) ∧
    ({ stateAt .pRst with replies := [⟨1#8, []⟩], sel := true }.replies = ⟨1#8, []⟩ :: [] ∧ (1#8 : TsWord).getLsbD 0 = true ∧
      { stateAt .pRst with replies := [⟨1#8, []⟩], sel := true }.sel = true) := by decide

/-- For `NoDeviceReported`, `IdentifierReported`, `WriteProgressReported`, `WriteCompleted` and `ReportsDelivered`. -/
theorem witness_ReportsTaken :
    (stateAt .pNodev).acks = 0 + 1 ∧ (stateAt .rRpt).acks = 0 + 1 ∧ (stateAt .wProg).acks = 0 + 1 ∧
    (stateAt .wDone).acks = 0 + 1 := by decide

/-- For `ExchangeMicroSteps`, `ReadRequested`, `WriteCommandSent`, `RequestsExchangeOneWord`, `IssuedWordsExchange` and
`CommandBytesSentByWriteByte`. -/
theorem witness_ExchangesAnswered :
    (stateAt .wRst1).replies = ⟨0xFF#8, []⟩ :: [] ∧ (stateAt .rReq).replies = ⟨0xFF#8, []⟩ :: [] ∧ (stateAt .wCmd).replies = ⟨0xFF#8, []⟩ :: [] := by
  decide

theorem witness_BeatStored :
    ({ stateAt .rData with byte := 7#3 }.owed = 0xFF#8 :: [] ∧ { stateAt .rData with byte := 7#3 }.byte = 7#3) ∧
    ({ stateAt .rData with byte := 6#3 }.owed = 0xFF#8 :: [] ∧ { stateAt .rData with byte := 6#3 }.byte ≠ 7#3 ∧
      7#3 ≠ { stateAt .rData with byte := 6#3 }.byte) := by decide

theorem witness_PayloadBitSent :
    ({ stateAt .wBit with bit := 6#3 }.replies = ⟨0xFF#8, []⟩ :: [] ∧ { stateAt .wBit with bit := 6#3 }.bit < 7#3) ∧
    ({ stateAt .wBit with bit := 7#3, byte := 6#3 }.bit = 7#3 ∧
      { stateAt .wBit with bit := 7#3, byte := 6#3 }.byte < 7#3) ∧
    ({ stateAt .wBit with bit := 7#3, byte := 7#3 }.bit = 7#3 ∧
      { stateAt .wBit with bit := 7#3, byte := 7#3 }.byte = 7#3) := by decide

theorem witness_MarshalerSendsTheComplement :
    idGet (idOfValue 0xFF00#64) 0#3 = 0x00#8 ∧ idGet (idOfValue 0xFF00#64) 1#3 = 0xFF#8 := by decide

theorem witness_UnansweredMessageStopsTheEngine :
    ({ stateAt .wBit with replies := [] }.rst = [] ∧ treqWord { stateAt .wBit with replies := [] } = some 0x300#11 ∧
      { stateAt .wBit with replies := [] }.replies = []) ∧
    ({ stateAt .rData with owed := [] }.rst = [] ∧ wantsBeat { stateAt .rData with owed := [] } = true ∧
      { stateAt .rData with owed := [] }.owed = []) ∧
    ({ stateAt .wDone with acks := 0 }.rst = [] ∧ rptWord { stateAt .wDone with acks := 0 } = some 3#66 ∧
      { stateAt .wDone with acks := 0 }.acks = 0) ∧
    ((stateAt .idle).rst = [] ∧ (stateAt .idle).upc = .idle ∧ (stateAt .idle).cmds = []) := by decide

theorem witness_OfferedMessageIsTheOneExchanged :
    ((stateAt .wBdly).rstNow = false ∧ treqWord (stateAt .wBdly) = some 0x519#11 ∧
      (stateAt .wBdly).replies = ⟨0xFF#8, []⟩ :: []) ∧
    ((stateAt .rData).rstNow = false ∧ wantsBeat (stateAt .rData) = true ∧ (stateAt .rData).owed = 0xFF#8 :: []) ∧
    ((stateAt .wProg).rstNow = false ∧ rptWord (stateAt .wProg) = some 2#66 ∧ (stateAt .wProg).acks = 0 + 1) := by
  decide

/-- A reply whose beats are one too many. -/
def surplusReply : Reply := ⟨0#8, idA.toList ++ [0x11#8]⟩

theorem witness_ReadIdentifierWhole :
    { stateAt .rCmd with replies := [⟨0#8, []⟩, surplusReply] }.replies = ⟨0#8, []⟩ :: surplusReply :: [] ∧
    surplusReply.beats = idA.toList ++ [0x11#8] ∧
    { stateAt .rCmd with replies := [⟨0#8, []⟩, surplusReply] }.acks = 0 + 1 := ⟨rfl, rfl, rfl⟩

/-- For `WriteIdentifierWhole` and `WriteRequestCounts`. -/
theorem witness_WriteIdentifierWhole_WriteRequestCounts :
    (List.replicate 137 (⟨0xFE#8, []⟩ : Reply)).length = 137 ∧
    { stateAt .wProg with replies := List.replicate 137 (⟨0xFE#8, []⟩ : Reply) ++ [surplusReply], acks := 2 }.replies =
      List.replicate 137 (⟨0xFE#8, []⟩ : Reply) ++ [surplusReply] ∧
    { stateAt .wProg with replies := List.replicate 137 (⟨0xFE#8, []⟩ : Reply) ++ [surplusReply], acks := 2 }.acks = 0 + 2 :=
  ⟨rfl, rfl, rfl⟩

theorem witness_RoutinesAreTheMachinesSteps :
    ((stateAt .rCmd).rst = [] ∧ (stateAt .rCmd).upc = .rCmd ∧ (stateAt .rCmd).st = .reading) ∧
    ((stateAt .wProg).rst = [] ∧ (stateAt .wProg).upc = .wProg ∧ (stateAt .wProg).st = .writing) := by decide

theorem witness_PollWithoutDeviceWhole :
    (polled 2#67 [⟨0xFE#8, []⟩] 1).upc = .idle ∧ (polled 2#67 [⟨0xFE#8, []⟩] 1).rst = [] ∧ (polled 2#67 [⟨0xFE#8, []⟩] 1).cmds = 2#67 :: [] ∧
    (2#67 : HcWord).getLsbD 0 = false ∧ (2#67 : HcWord).getLsbD 2 = false ∧
    (polled 2#67 [⟨0xFE#8, []⟩] 1).replies = ⟨0xFE#8, []⟩ :: [] ∧ (0xFE#8 : TsWord).getLsbD 0 = false ∧
    (polled 2#67 [⟨0xFE#8, []⟩] 1).acks = 0 + 1 := by decide

theorem witness_PollReadWhole :
    (polled 0#67 [⟨1#8, []⟩, ⟨0#8, []⟩, surplusReply] 1).upc = .idle ∧
    (polled 0#67 [⟨1#8, []⟩, ⟨0#8, []⟩, surplusReply] 1).rst = [] ∧
    (polled 0#67 [⟨1#8, []⟩, ⟨0#8, []⟩, surplusReply] 1).cmds = 0#67 :: [] ∧
    (0#67 : HcWord).getLsbD 0 = false ∧ (0#67 : HcWord).getLsbD 2 = false ∧ (0#67 : HcWord).getLsbD 1 = false ∧
    (polled 0#67 [⟨1#8, []⟩, ⟨0#8, []⟩, surplusReply] 1).replies = ⟨1#8, []⟩ :: ⟨0#8, []⟩ :: surplusReply :: [] ∧
    surplusReply.beats = idA.toList ++ [0x11#8] ∧ (1#8 : TsWord).getLsbD 0 = true ∧
    (polled 0#67 [⟨1#8, []⟩, ⟨0#8, []⟩, surplusReply] 1).acks = 0 + 1 :=
  ⟨rfl, rfl, rfl, rfl, rfl, rfl, rfl, rfl, rfl, rfl⟩

theorem witness_PollWriteWhole :
    (polled 2#67 (⟨1#8, []⟩ :: (List.replicate 137 (⟨0#8, []⟩ : Reply) ++ [])) 2).upc = .idle ∧
    (polled 2#67 (⟨1#8, []⟩ :: (List.replicate 137 (⟨0#8, []⟩ : Reply) ++ [])) 2).rst = [] ∧
    (polled 2#67 (⟨1#8, []⟩ :: (List.replicate 137 (⟨0#8, []⟩ : Reply) ++ [])) 2).cmds = 2#67 :: [] ∧
    (2#67 : HcWord).getLsbD 0 = false ∧ (2#67 : HcWord).getLsbD 2 = false ∧ (2#67 : HcWord).getLsbD 1 = true ∧
    (polled 2#67 (⟨1#8, []⟩ :: (List.replicate 137 (⟨0#8, []⟩ : Reply) ++ [])) 2).replies =
      ⟨1#8, []⟩ :: (List.replicate 137 (⟨0#8, []⟩ : Reply) ++ []) ∧
    (1#8 : TsWord).getLsbD 0 = true ∧ (List.replicate 137 (⟨0#8, []⟩ : Reply)).length = 137 ∧
    (polled 2#67 (⟨1#8, []⟩ :: (List.replicate 137 (⟨0#8, []⟩ : Reply) ++ [])) 2).acks = 0 + 2 :=
  ⟨rfl, rfl, rfl, rfl, rfl, rfl, rfl, rfl, rfl, rfl⟩

/-- The invariants of R33 hold of a state in the middle of a Write, and it has a next state. -/
theorem witness_StateInvariantsKept : Inv (stateAt .wBit) ∧ (nextOf (step (stateAt .wBit))).isSome := by
  refine ⟨⟨?_, ?_, ?_, ?_, ?_, ?_⟩, ?_⟩ <;> decide

theorem witness_OnlyLegalMessages :
    TraceLegal { stateAt .wBit with trace := [.command 2#67, .exchange 0x519#11 0#8, .report 2#66, .completion 5#3] } ∧
    (nextOf (step { stateAt .wBit with
      trace := [.command 2#67, .exchange 0x519#11 0#8, .report 2#66, .completion 5#3] })).isSome := by
  refine ⟨?_, by decide⟩
  simp [TraceLegal, Event.legal, issuedWords, rpRpt, rpData, Report.code]

/-- A Write up to its first payload bit. -/
theorem witness_BusSessionKept :
    SessionInv { stateAt .wBit with
      trace := [.command 2#67, .exchange 0#11 1#8, .report 2#66, .exchange 0#11 1#8, .exchange 0x2D5#11 0#8,
        .exchange 0x519#11 0#8] } ∧
    (nextOf (step { stateAt .wBit with
      trace := [.command 2#67, .exchange 0#11 1#8, .report 2#66, .exchange 0#11 1#8, .exchange 0x2D5#11 0#8,
        .exchange 0x519#11 0#8] })).isSome :=
  ⟨⟨.writeCommand, by decide, by decide⟩, by decide⟩

/-- A request with too many beats in its reply: the step is not a wait. -/
theorem witness_NoSurplusBeatIsOwed :
    OwedWithinContract { stateAt .rReq with replies := [surplusReply] } ∧
    (nextOf (step { stateAt .rReq with replies := [surplusReply] })).map (·.owed.length) = some 8 ∧
    OwedWithinContract { stateAt .rData with owed := [1#8], byte := 7#3 } ∧
    (nextOf (step { stateAt .rData with owed := [1#8], byte := 7#3 })).map (·.owed.length) = some 0 := by
  simp only [OwedWithinContract]; decide

/-- Reset, a cancelled `POLL` offered, one step: a state with a message in its trace is reached. -/
theorem witness_EveryRunFromResetIsSafe :
    Reaches { State.reset with rst := [], cmds := [4#67], replies := [⟨0xFF#8, []⟩], acks := 1 }
      { State.reset with res := .userCancel, replies := [⟨0xFF#8, []⟩], acks := 1, trace := [.command 4#67, .completion 4#3] } :=
  .tail .refl rfl

theorem witness_ProtocolTransitions :
    (Inv (stateAt .pRst) ∧ (stateAt .pRst).rstNow = false ∧
      (regs (step (stateAt .pRst))).map (·.st) = some .reading) ∧
    (Inv { stateAt .pRst with sel := true } ∧ { stateAt .pRst with sel := true }.rstNow = false ∧
      (regs (step { stateAt .pRst with sel := true })).map (·.st) = some .writing) ∧
    (Inv (stateAt .rRpt) ∧ (stateAt .rRpt).rstNow = false ∧ (regs (step (stateAt .rRpt))).map (·.st) = some .idle) ∧
    (Inv (stateAt .wDone) ∧ (stateAt .wDone).rstNow = false ∧ (regs (step (stateAt .wDone))).map (·.st) = some .idle) := by
  refine ⟨⟨⟨?_, ?_, ?_, ?_, ?_, ?_⟩, ?_, ?_⟩, ⟨⟨?_, ?_, ?_, ?_, ?_, ?_⟩, ?_, ?_⟩, ⟨⟨?_, ?_, ?_, ?_, ?_, ?_⟩, ?_, ?_⟩,
    ⟨⟨?_, ?_, ?_, ?_, ?_, ?_⟩, ?_, ?_⟩⟩ <;> decide

theorem witness_IdentifierFrame :
    (writesId .uWBit = false ∧ (nextOf (exec .uWBit (stateAt .wBit))).isSome) ∧
    (protoAt (stateAt .wBit).upc = .writing ∧ (stateAt .wBit).rstNow = false ∧
      (nextOf (step (stateAt .wBit))).isSome) := by decide

theorem witness_HiddenRegisterFrame :
    (nextOf (exec .uRRpt (stateAt .rRpt))).isSome ∧ writesSel .uRRpt = false ∧ writesByte .uRRpt = false ∧
    writesBit .uRRpt = false := by decide

theorem witness_StatusRegisterFrame :
    (nextOf (exec .uWBit (stateAt .wBit))).isSome ∧ writesRes .uWBit = false ∧ writesSt .uWBit = false := by decide

theorem witness_ResWrittenOnlyByCompletion :
    (stateAt .rRpt).rstNow = false ∧ (regs (step (stateAt .rRpt))).map (·.res) = some .readDone := by decide

theorem witness_CompletionExactlyWhenReady :
    ((stateAt .idle).rstNow = false ∧ (nextOf (step (stateAt .idle))).isSome) ∧
    ((stateAt .wProg).rstNow = false ∧ traceOf (step (stateAt .wProg)) = some [.report 2#66]) ∧
    ((stateAt .wDone).rstNow = false ∧ traceOf (step (stateAt .wDone)) = some [.report 3#66, .completion 3#3]) := by
  decide

theorem witness_TraceOnlyGrows : (nextOf (exec .uPRst (stateAt .pRst))).isSome := by decide

theorem witness_AnswersInAWriteAreDropped :
    protoAt (stateAt .wRst4).upc = .writing ∧ treqWord (stateAt .wRst4) = some 0#11 ∧ (stateAt .wRst4).rstNow = false ∧
    (stateAt .wRst4).replies = ⟨0xFF#8, []⟩ :: [] := by decide

/-- A device on the reader with the ROM of program 3.2. -/
def deviceX : Device :=
  Device.initial #v[0x01#8, 0xCA#8, 0xFE#8, 0x00#8, 0x00#8, 0x12#8, 0x34#8, 0x9D#8] true

theorem witness_FixtureReadDeliversTheRom :
    (polled 0#67 [] 0).upc = .idle ∧ (polled 0#67 [] 0).rst = [] ∧ (polled 0#67 [] 0).replies = [] ∧
    (polled 0#67 [] 0).cmds = 0#67 :: [] ∧
    (0#67 : HcWord).getLsbD 0 = false ∧ (0#67 : HcWord).getLsbD 2 = false ∧ (0#67 : HcWord).getLsbD 1 = false ∧
    deviceX.present = true ∧ deviceX.pend = false := by decide

theorem witness_FixtureWriteClonesTheIdentifier :
    (polled 2#67 [] 0).upc = .idle ∧ (polled 2#67 [] 0).rst = [] ∧ (polled 2#67 [] 0).replies = [] ∧
    (polled 2#67 [] 0).cmds = 2#67 :: [] ∧
    (2#67 : HcWord).getLsbD 0 = false ∧ (2#67 : HcWord).getLsbD 2 = false ∧ (2#67 : HcWord).getLsbD 1 = true ∧
    deviceX.present = true ∧ deviceX.pend = false ∧ deviceX.we = false := by decide

end Sys2Proof.Tests
end

section
/-! The rows of format `CP`: each is the end of a host command with its own code (R75, R160). -/

namespace Sys2Proof.Proofs

open Sys2Proof.Machine

/-- All that a completion does (R8, R160): a record update, so every field not named is as before. -/
theorem complete_eq (c : Completion) (s : State) :
    complete c s = { s with res := c, st := .idle, upc := .idle, trace := s.trace ++ [.completion c.code] } := rfl

theorem exec_cplNoDevice (s : State) : exec .cplNoDevice s = .next (complete .noDevice s) := rfl

theorem exec_cplReadDone (s : State) : exec .cplReadDone s = .next (complete .readDone s) := rfl

theorem exec_cplWriteDone (s : State) : exec .cplWriteDone s = .next (complete .writeDone s) := rfl

theorem exec_cplUserCancel (s : State) : exec .cplUserCancel s = .next (complete .userCancel s) := rfl

theorem exec_cplLoaded (s : State) : exec .cplLoaded s = .next (complete .loaded s) := rfl

/-- Settles O33: each row runs `complete` with its own code, and `complete_eq` says what that does. -/
theorem completionEndsTheCommand : Obligations.CompletionEndsTheCommand := by
  intro s
  refine ⟨?_, ?_, ?_, ?_, ?_⟩
  · rw [exec_cplNoDevice, complete_eq, Completion.code]
  · rw [exec_cplReadDone, complete_eq, Completion.code]
  · rw [exec_cplWriteDone, complete_eq, Completion.code]
  · rw [exec_cplUserCancel, complete_eq, Completion.code]
  · rw [exec_cplLoaded, complete_eq, Completion.code]

end Sys2Proof.Proofs
end

section
/-! The invariants along a run (10_state.md R33; 20_memory.md R62; 30_encoding.md R72 to R79; 40_bus_transport.md R101):
one lemma for each says that `StepTo` keeps it, `step_keeps` carries it to a step, `reaches_keeps` to a run. -/

namespace Sys2Proof.Proofs

open Sys2Proof.Machine Sys2Proof.Laws

/-! ## What is kept by every step, and so along every run -/

/-- What reset, the passing of one level of `rst` and every micro-step keep is kept by every step. -/
theorem step_keeps {P : State → Prop} (hreset : ∀ s, P s → P (resetEngine s)) (htick : ∀ s, P s → P s.tick)
    (hstep : ∀ s t, P s → StepTo s t → P t) {s t : State} (hs : P s) (ht : step s = .next t) : P t := by
  rcases step_cases ht with ⟨-, rfl⟩ | ⟨-, h⟩
  · exact hreset _ (htick s hs)
  · exact hstep _ t (htick s hs) h

/-- With `rst` released a step is a micro-step. -/
theorem stepTo_of_released {s t : State} (hrst : s.rstNow = false) (ht : step s = .next t) : StepTo s.tick t := by
  rcases step_cases ht with ⟨hr, -⟩ | ⟨-, h⟩
  · simp [hrst] at hr
  · exact h

/-- What every step keeps holds in every state a run comes to. -/
theorem reaches_keeps {P : State → Prop} (hstep : ∀ t u, P t → step t = .next u → P u) {s t : State} (hs : P s)
    (h : Reaches s t) : P t := by
  induction h with
  | refl => exact hs
  | tail _ hu ih => exact hstep _ _ ih hu

/-! ## The protocol state (R22, R33) -/

theorem code_idle_iff (u : MicroStep) : u.code ∈ [0#5, 1#5, 2#5] ↔ protoAt u = .idle := by
  cases u <;> decide

theorem code_reading_iff (u : MicroStep) : 3#5 ≤ u.code ∧ u.code ≤ 6#5 ↔ protoAt u = .reading := by
  cases u <;> decide

theorem code_writing_iff (u : MicroStep) : 7#5 ≤ u.code ∧ u.code ≤ 19#5 ↔ protoAt u = .writing := by
  cases u <;> decide

theorem code_le (u : MicroStep) : u.code ≤ 19#5 := by
  cases u <;> decide

theorem proto_code_ne (p : Proto) : p.code ≠ 0b11#2 := by
  cases p <;> decide

theorem completion_code_le (c : Completion) : c.code ≤ 5#3 := by
  cases c <;> decide

/-- The invariants of R33 say that `ST` is the value R82 gives for the micro-step at `UPC`; the rest of them is
true of every value the registers can hold. -/
theorem inv_iff (s : State) : Inv s ↔ s.st = protoAt s.upc := by
  constructor
  · intro h
    cases hp : protoAt s.upc with
    | idle => exact h.idle_iff.2 ((code_idle_iff _).2 hp)
    | reading => exact h.reading_iff.2 ((code_reading_iff _).2 hp)
    | writing => exact h.writing_iff.2 ((code_writing_iff _).2 hp)
  · intro h
    exact {
      idle_iff := by rw [code_idle_iff, h]
      reading_iff := by rw [code_reading_iff, h]
      writing_iff := by rw [code_writing_iff, h]
      upc_le := code_le _
      st_ne := proto_code_ne _
      res_le := completion_code_le _ }

/-- A plain exchange stays in its routine. -/
theorem plainExchanges_protoAt : ∀ p ∈ plainExchanges, protoAt p.2.2 = protoAt p.1 := by
  decide

theorem stepTo_keeps_protoAt {s t : State} (hs : s.st = protoAt s.upc) (h : StepTo s t) : t.st = protoAt t.upc := by
  cases h with
  | wait | beat => exact hs
  | load | cancel | dispatchRead | dispatchWrite | reportNoDevice | reportIdentifier | reportComplete => rfl
  | poll _ _ hu | noDevice _ _ hu | readRequest _ _ hu | writeCommand _ _ hu | lastBeat _ _ hu | bit _ _ hu
  | lastBitOfByte _ _ hu | lastBit _ _ hu | reportProgress _ hu => exact (hs.trans (congrArg protoAt hu) :)
  | plainExchange u w v _ _ hmem hu =>
    exact (hs.trans (congrArg protoAt hu)).trans (plainExchanges_protoAt (u, w, v) hmem).symm

/-- Settles O46: by `inv_iff` the invariants are one equation, which reset makes true and every micro-step keeps. -/
theorem stateInvariantsKept : Obligations.StateInvariantsKept := by
  intro s t hs ht
  rw [inv_iff] at hs ⊢
  exact step_keeps (P := fun s => s.st = protoAt s.upc) (fun _ _ => rfl) (fun _ => id)
    (fun _ _ => stepTo_keeps_protoAt) hs ht

/-- The transitions of `ST`: under the invariant only the dispatch and the ends of the two routines change it. -/
theorem stepTo_st_changes {s t : State} (hs : s.st = protoAt s.upc) (h : StepTo s t) (hne : t.st ≠ s.st) :
    (s.st = .idle ∧ t.st = .reading ∧ s.upc = .pRst ∧ s.sel = false ∧
      ∃ r rest, s.replies = r :: rest ∧ r.rdata.getLsbD 0 = true) ∨
    (s.st = .idle ∧ t.st = .writing ∧ s.upc = .pRst ∧ s.sel = true ∧
      ∃ r rest, s.replies = r :: rest ∧ r.rdata.getLsbD 0 = true) ∨
    (s.st = .reading ∧ t.st = .idle ∧ s.upc = .rRpt ∧ t.res = .readDone) ∨
    (s.st = .writing ∧ t.st = .idle ∧ s.upc = .wDone ∧ t.res = .writeDone) := by
  cases h with
  | dispatchRead r rest hu hr hp hsel =>
    exact .inl ⟨hs.trans (congrArg protoAt hu), rfl, hu, hsel, r, rest, hr, hp⟩
  | dispatchWrite r rest hu hr hp hsel =>
    exact .inr (.inl ⟨hs.trans (congrArg protoAt hu), rfl, hu, hsel, r, rest, hr, hp⟩)
  | reportIdentifier _ hu => exact .inr (.inr (.inl ⟨hs.trans (congrArg protoAt hu), rfl, hu, rfl⟩))
  | reportComplete _ hu => exact .inr (.inr (.inr ⟨hs.trans (congrArg protoAt hu), rfl, hu, rfl⟩))
  | load _ _ hu | cancel _ _ hu | reportNoDevice _ hu => exact absurd (hs.trans (congrArg protoAt hu)).symm hne
  | wait | poll | noDevice | plainExchange | readRequest | writeCommand | beat | lastBeat | bit | lastBitOfByte
  | lastBit | reportProgress => exact absurd rfl hne

/-- Settles O51: with `rst` released a step is a micro-step, and `stepTo_st_changes` lists those that change `ST`. -/
theorem protocolTransitions : Obligations.ProtocolTransitions := by
  intro s t hs hrst ht hne
  exact stepTo_st_changes (s := s.tick) ((inv_iff s).1 hs) (stepTo_of_released hrst ht) hne

/-! ## Legal messages (R72, R74, R75, R79) -/

theorem bitRequest_eq (s : State) : bitRequest s = 0x300#11 ∨ bitRequest s = 0x301#11 := by
  unfold bitRequest
  cases payloadBit s.idBuf s.byte s.bit
  · exact .inl rfl
  · exact .inr rfl

theorem bitRequest_issued (s : State) : bitRequest s ∈ issuedWords := by
  rcases bitRequest_eq s with h | h <;> rw [h] <;> decide

theorem plainExchanges_issued : ∀ p ∈ plainExchanges, p.2.1 ∈ issuedWords := by
  decide

/-- An identifier report has the code of `IDENTIFIER`, so its data is free (R74). -/
theorem identifierReport_legal (v : IdBuf) : (Event.report (identifierReport v)).legal :=
  .inl (BitVec.extractLsb'_append_eq_right ..)

/-- The messages of one micro-step: it adds some to the trace, and each is one the engine may send. -/
theorem stepTo_adds_legal {s t : State} (h : StepTo s t) :
    ∃ es, t.trace = s.trace ++ es ∧ ∀ e ∈ es, e.legal := by
  cases h with
  | wait => exact ⟨[], (List.append_nil _).symm, nofun⟩
  | plainExchange u w v _ _ hmem =>
    exact ⟨_, rfl, List.forall_mem_singleton.2 (plainExchanges_issued (u, w, v) hmem)⟩
  | bit | lastBitOfByte | lastBit => exact ⟨_, rfl, List.forall_mem_singleton.2 (bitRequest_issued s)⟩
  | reportIdentifier => exact ⟨_, rfl, List.forall_mem_cons.2 ⟨identifierReport_legal _, by simp [Event.legal]⟩⟩
  | noDevice | dispatchRead | dispatchWrite | readRequest | writeCommand =>
    exact ⟨_, rfl, by simp [Event.legal, issuedWords]⟩
  | load | cancel | poll | beat | lastBeat => exact ⟨_, rfl, by simp [Event.legal]⟩
  | reportNoDevice | reportProgress | reportComplete => exact ⟨_, rfl, by simp [Event.legal, rpData]⟩

theorem traceLegal_step {s t : State} (hs : TraceLegal s) (ht : step s = .next t) : TraceLegal t := by
  refine step_keeps (fun _ => id) (fun _ => id) (fun s t hs h => ?_) hs ht
  obtain ⟨es, htrace, hes⟩ := stepTo_adds_legal h
  rw [TraceLegal, htrace]
  exact List.forall_mem_append.2 ⟨hs, hes⟩

/-! ## The Bus Session (R62) -/

theorem sessionAfter_append {q q' : Session} {es : List Event} (h : sessionAfter q es = some q') (fs : List Event) :
    sessionAfter q (es ++ fs) = sessionAfter q' fs := by
  induction es generalizing q with
  | nil => cases h; rfl
  | cons e es ih =>
    simp only [List.cons_append, sessionAfter] at h ⊢
    cases hn : q.next e with
    | none => simp [hn] at h
    | some p => simp only [hn] at h ⊢; exact ih h

/-- Every plain exchange is a message its session takes, and leads to a session that fits the micro-step it goes on to;
the answer plays no part. -/
theorem plainExchanges_fit (q : Session) : ∀ p ∈ plainExchanges, sessionFits p.1 q = true → ∀ r : TsWord,
    ∃ q', q.next (.exchange p.2.1 r) = some q' ∧ sessionFits p.2.2 q' = true := by
  have h : ∀ p ∈ plainExchanges, sessionFits p.1 q = true →
      (q.next (.exchange p.2.1 0#8)).any (sessionFits p.2.2) = true := by cases q <;> decide
  exact fun p hp hq _ => (Option.any_eq_true _ _).1 (h p hp hq)

/-- A payload bit keeps the session in its data phase. -/
theorem bitRequest_next {q : Session} (hq : sessionFits .wBit q = true) (s : State) (r : TsWord) :
    q.next (.exchange (bitRequest s) r) = some .writing := by
  obtain rfl | rfl : q = .writeCommand ∨ q = .writing := by simpa [sessionFits] using hq
  all_goals rcases bitRequest_eq s with h | h <;> rw [h] <;> rfl

/-- The messages of one micro-step take a session that fits it to one that fits the next. -/
theorem stepTo_adds_session {s t : State} (h : StepTo s t) {q : Session} (hq : sessionFits s.upc q = true) :
    ∃ es q', t.trace = s.trace ++ es ∧ sessionAfter q es = some q' ∧ sessionFits t.upc q' = true := by
  cases h with
  | wait => exact ⟨[], q, (List.append_nil _).symm, rfl, hq⟩
  | load | cancel | poll => exact ⟨_, .fresh, rfl, rfl, rfl⟩
  | noDevice | dispatchRead | dispatchWrite => exact ⟨_, .opened, rfl, rfl, rfl⟩
  | plainExchange u w v r _ hmem hu =>
    obtain ⟨q', hnext, hfit⟩ := plainExchanges_fit q (u, w, v) hmem (hu ▸ hq) r.rdata
    exact ⟨_, q', rfl, by simp [sessionAfter, hnext], hfit⟩
  | readRequest _ _ hu =>
    obtain rfl : q = .readCommand := by simpa [hu, sessionFits] using hq
    exact ⟨_, .reading, rfl, rfl, rfl⟩
  | writeCommand _ _ hu =>
    obtain rfl : q = .opened := by simpa [hu, sessionFits] using hq
    exact ⟨_, .writeCommand, rfl, rfl, rfl⟩
  | beat _ _ hu | lastBeat _ _ hu =>
    obtain rfl : q = .reading := by simpa [hu, sessionFits] using hq
    exact ⟨_, .reading, rfl, rfl, by simp [hu, sessionFits]⟩
  | bit _ _ hu | lastBitOfByte _ _ hu | lastBit _ _ hu =>
    exact ⟨_, .writing, rfl, by simp [sessionAfter, bitRequest_next (hu ▸ hq)], rfl⟩
  | reportNoDevice | reportIdentifier | reportProgress | reportComplete => exact ⟨_, q, rfl, rfl, rfl⟩

theorem sessionInv_step {s t : State} (hs : SessionInv s) (ht : step s = .next t) : SessionInv t := by
  refine step_keeps (P := SessionInv) (fun s ⟨q, hq, _⟩ => ⟨q, hq, rfl⟩) (fun _ => id)
    (fun s t ⟨q, hq, hfit⟩ h => ?_) hs ht
  obtain ⟨es, q', htrace, hq', hfit'⟩ := stepTo_adds_session h hfit
  exact ⟨q', by rw [htrace, sessionAfter_append hq, hq'], hfit'⟩

theorem busSessionOk_of_sessionInv {s : State} (h : SessionInv s) : BusSessionOk s := by
  obtain ⟨q, hq, -⟩ := h
  simp [BusSessionOk, hq]

/-! ## The beats owed (R101) -/

/-- With none owed the contract is met, wherever the engine stands. -/
theorem owed_nil_within {s : State} (h : s.owed = []) : OwedWithinContract s := by
  simp [OwedWithinContract, h]

/-- Outside `U_R_DATA` the contract says that none is owed. -/
theorem owed_eq_nil {s : State} (h : OwedWithinContract s) (hu : s.upc ≠ .rData) : s.owed = [] := by
  simpa [OwedWithinContract, hu] using h

theorem stepTo_keeps_owed {s t : State} (hs : OwedWithinContract s) (h : StepTo s t) : OwedWithinContract t := by
  cases h with
  | wait => exact hs
  | noDevice | dispatchRead | dispatchWrite | plainExchange | writeCommand | bit | lastBitOfByte | lastBit =>
    exact owed_nil_within rfl
  | load _ _ hu | cancel _ _ hu | poll _ _ hu | reportNoDevice _ hu | reportIdentifier _ hu | reportProgress _ hu
  | reportComplete _ hu =>
    have hnil : s.owed = [] := owed_eq_nil hs (by simp [hu])
    exact owed_nil_within hnil
  | readRequest => simp [OwedWithinContract]
  | beat d rest hu ho hb =>
    have hcount : (s.byte + 1#3).toNat = s.byte.toNat + 1 := by bv_omega
    simp only [OwedWithinContract, hu, ho, List.length_cons, if_true] at hs ⊢
    omega
  | lastBeat d rest hu ho hb =>
    simp only [OwedWithinContract, hu, ho, hb, List.length_cons, if_true] at hs
    exact owed_nil_within (List.length_eq_zero_iff.1 (by simpa using hs))

theorem owedWithinContract_step {s t : State} (hs : OwedWithinContract s) (ht : step s = .next t) :
    OwedWithinContract t :=
  step_keeps (fun _ _ => owed_nil_within rfl) (fun _ => id) (fun _ _ => stepTo_keeps_owed) hs ht

/-! ## From reset -/

/-- The engine right after reset, with what the other agents come to offer. -/
def resetOffered (levels : List Bool) (commands : List HcWord) (answers : List Reply) (reportsTaken : Nat) : State :=
  { State.reset with rst := levels, cmds := commands, replies := answers, acks := reportsTaken }

theorem resetOffered_safe (levels : List Bool) (commands : List HcWord) (answers : List Reply) (reportsTaken : Nat) :
    Safe (resetOffered levels commands answers reportsTaken) :=
  ⟨(inv_iff _).2 rfl, nofun, .fresh, rfl, rfl⟩

/-- Settles O45: `State.reset` is the engine after reset with nothing offered. -/
theorem resetStateIsSafe : Obligations.ResetStateIsSafe :=
  ⟨resetOffered_safe [] [] [] 0, owed_nil_within rfl⟩

theorem safe_step {s t : State} (hs : Safe s) (ht : step s = .next t) : Safe t := by
  obtain ⟨hinv, hlegal, hsession⟩ := hs
  exact ⟨stateInvariantsKept s t hinv ht, traceLegal_step hlegal ht, sessionInv_step hsession ht⟩

/-- Settles O50: the state after reset is safe, and every step keeps `Safe` and the contract on the beats owed. -/
theorem everyRunFromResetIsSafe : Obligations.EveryRunFromResetIsSafe := by
  intro levels commands answers reportsTaken s hreach
  obtain ⟨hinv, hlegal, hsession⟩ : Safe s :=
    reaches_keeps (fun _ _ => safe_step) (resetOffered_safe levels commands answers reportsTaken) hreach
  have howed : OwedWithinContract s :=
    reaches_keeps (fun _ _ => owedWithinContract_step) (owed_nil_within rfl) hreach
  exact ⟨hinv, hlegal, busSessionOk_of_sessionInv hsession, howed⟩

/-! ## The values after reset (R32) -/

/-- Byte `k` of the identifier of a value is bits `[8k+7 : 8k]` of it (R52). -/
theorem idGet_idOfValue (v : BitVec 64) (k : BitVec 3) : idGet (idOfValue v) k = v.extractLsb' (8 * k.toNat) 8 := by
  match k with
  | 0#3 | 1#3 | 2#3 | 3#3 | 4#3 | 5#3 | 6#3 | 7#3 => rfl

/-- Settles O7: each register by the definition of the state after reset, the identifier by `idGet_idOfValue`. -/
theorem valuesAfterReset : Obligations.ValuesAfterReset :=
  ⟨rfl, rfl, rfl, rfl, rfl, rfl, rfl, rfl, rfl, idGet_idOfValue _, rfl, rfl, rfl, rfl, rfl⟩

end Sys2Proof.Proofs
end

section
/-! The frames of the registers (10_state.md R21 to R26, R34; the "State written" lines of R102 to R158): one rule for
each operation of the state, one for each message, and from them the frame of every row. -/

namespace Sys2Proof.Proofs

open Sys2Proof.Machine Sys2Proof.Laws

/-- `t` is `s` but for the registers that row `i` is listed to write, the channels and the trace (`UPC` apart). -/
structure RegisterFrame (i : Instr) (s t : State) : Prop where
  idBuf : writesId i = false → t.idBuf = s.idBuf
  sel : writesSel i = false → t.sel = s.sel
  byte : writesByte i = false → t.byte = s.byte
  bit : writesBit i = false → t.bit = s.bit
  res : writesRes i = false → t.res = s.res
  st : writesSt i = false → t.st = s.st

namespace RegisterFrame

variable {i : Instr}

/-! ## One rule for each operation of the state -/

theorem refl (s : State) : RegisterFrame i s s :=
  ⟨fun _ => rfl, fun _ => rfl, fun _ => rfl, fun _ => rfl, fun _ => rfl, fun _ => rfl⟩

theorem trans {s t u : State} (h : RegisterFrame i s t) (k : RegisterFrame i t u) : RegisterFrame i s u where
  idBuf w := (k.idBuf w).trans (h.idBuf w)
  sel w := (k.sel w).trans (h.sel w)
  byte w := (k.byte w).trans (h.byte w)
  bit w := (k.bit w).trans (h.bit w)
  res w := (k.res w).trans (h.res w)
  st w := (k.st w).trans (h.st w)

theorem goto (s : State) (u : MicroStep) : RegisterFrame i s (s.goto u) := { refl s with }

theorem setByte {s : State} {n : BitVec 3} (h : writesByte i = true) : RegisterFrame i s (s.setByte n) :=
  { refl s with byte := by simp [h] }

theorem setBit {s : State} {n : BitVec 3} (h : writesBit i = true) : RegisterFrame i s (s.setBit n) :=
  { refl s with bit := by simp [h] }

theorem setSel {s : State} {b : Bool} (h : writesSel i = true) : RegisterFrame i s (s.setSel b) :=
  { refl s with sel := by simp [h] }

theorem loadId {s : State} {v : BitVec 64} (h : writesId i = true) : RegisterFrame i s (s.loadId v) :=
  { refl s with idBuf := by simp [h] }

theorem complete {c : Completion} {s : State} (hres : writesRes i = true) (hst : writesSt i = true) :
    RegisterFrame i s (complete c s) :=
  { refl s with res := by simp [hres], st := by simp [hst] }

/-! ## One rule for each message: it writes what its continuation writes -/

/-- Neither what the other agents offer nor the trace is a register (R20). -/
theorem channels (s : State) (cmds : List HcWord) (replies : List Reply) (owed : List Byte) (acks : Nat)
    (trace : List Event) :
    RegisterFrame i s { s with cmds := cmds, replies := replies, owed := owed, acks := acks, trace := trace } :=
  { refl s with }

theorem exchange {w : TrWord} {k : TsWord → State → State} {s : State} (hk : ∀ r m, RegisterFrame i m (k r m)) :
    RegisterFrame i s (exchange w k s) := by
  rcases exchange_cases w k s with ⟨-, h⟩ | ⟨r, rest, -, h⟩ <;> rw [h]
  · exact refl s
  · exact (channels s _ _ _ _ _).trans (hk _ _)

theorem takeBeat {k : Byte → State → State} {s : State} (hk : ∀ d m, RegisterFrame i m (k d m)) :
    RegisterFrame i s (takeBeat k s) := by
  rcases takeBeat_cases k s with ⟨-, h⟩ | ⟨d, rest, -, h⟩ <;> rw [h]
  · exact refl s
  · exact (channels s _ _ _ _ _).trans (hk _ _)

theorem sendReport {w : RpWord} {k : State → State} {s : State} (hk : ∀ m, RegisterFrame i m (k m)) :
    RegisterFrame i s (sendReport w k s) := by
  rcases sendReport_cases w k s with ⟨-, h⟩ | ⟨n, -, h⟩ <;> rw [h]
  · exact refl s
  · exact (channels s _ _ _ _ _).trans (hk _)

theorem takeCommand {w : HcWord} {k : State → State} {s : State} (hk : ∀ m, RegisterFrame i m (k m)) :
    RegisterFrame i s (takeCommand w k s) := by
  rcases takeCommand_cases w k s with ⟨-, h⟩ | ⟨-, h⟩ <;> rw [h]
  · exact refl s
  · exact (channels s _ _ _ _ _).trans (hk _)

/-! ## The continuations that branch -/

theorem loadTaken {v : BitVec 64} {s : State} (hid : writesId i = true) (hres : writesRes i = true)
    (hst : writesSt i = true) : RegisterFrame i s (loadTaken v s) :=
  (loadId hid).trans (complete hres hst)

theorem commandTaken_uIdle (w : HcWord) (s : State) : RegisterFrame .uIdle s (commandTaken w s) := by
  unfold commandTaken
  split
  · exact loadTaken rfl rfl rfl
  · rcases pollTaken_cases (hcSelect w) (hcCancel w) s with ⟨-, h⟩ | ⟨-, h⟩ <;> rw [h]
    · exact complete rfl rfl
    · exact { refl s with sel := nofun }

theorem dispatchPoll_uPRst (r : TsWord) (s : State) : RegisterFrame .uPRst s (dispatchPoll r s) := by
  rcases dispatchPoll_cases r s with ⟨-, h⟩ | ⟨-, -, h⟩ | ⟨-, -, h⟩ <;> rw [h]
  · exact goto s .pNodev
  · exact { refl s with st := nofun }
  · exact { refl s with st := nofun }

theorem storeBeat_uRData (d : Byte) (s : State) : RegisterFrame .uRData s (storeBeat d s) := by
  rcases storeBeat_cases d s with ⟨-, h⟩ | ⟨-, h⟩ <;> rw [h]
  · exact { refl s with idBuf := nofun }
  · exact { refl s with idBuf := nofun, byte := nofun }

theorem nextBit_uWBit (s : State) : RegisterFrame .uWBit s (nextBit s) := by
  rcases nextBit_cases s with ⟨-, h⟩ | ⟨-, -, h⟩ | ⟨-, -, h⟩ <;> rw [h]
  · exact { refl s with bit := nofun }
  · exact { refl s with byte := nofun, bit := nofun }
  · exact goto s .wRst3

/-- The frame of a row whose meaning is one operation. -/
theorem of_next {s t u : State} (h : (.next u : Host.Outcome State Fault Refusal) = .next t)
    (hu : RegisterFrame i s u) : RegisterFrame i s t := by
  cases h; exact hu

end RegisterFrame

/-! ## The routines: what their micro-steps leave unchanged -/

/-- What the micro-steps of a routine keep, the routine keeps. -/
theorem runRoutine_keeps {P : State → Prop} (hstep : ∀ s t, s.upc ≠ .idle → P s → StepTo s t → P t)
    {n : Nat} {s t : State} (hs : P s) (h : runRoutine n s = .next t) : P t := by
  induction n generalizing s with
  | zero => cases h; exact hs
  | succ n ih =>
    by_cases hu : s.upc = .idle
    · rw [runRoutine_idle hu] at h; cases h; exact hs
    · cases hm : microStep s with
      | next u =>
        rw [runRoutine_succ hu hm] at h
        exact ih (hstep s u hu hs (stepTo_of_microStep hm)) h
      | fault r => cases r
      | refused r => simp [runRoutine, hu, hm] at h

/-- A routine goes on in its own micro-steps until it is over. -/
theorem stepTo_stays_or_ends {s t : State} (hp : protoAt s.upc ≠ .idle) (h : StepTo s t) :
    t.upc = .idle ∨ protoAt t.upc = protoAt s.upc := by
  cases h with
  | wait | beat => exact .inr rfl
  | load | cancel | reportNoDevice | reportIdentifier | reportComplete => exact .inl rfl
  | poll _ _ h | noDevice _ _ h | dispatchRead _ _ h | dispatchWrite _ _ h => exact absurd (congrArg protoAt h) hp
  | plainExchange u w v _ _ hmem h =>
    exact .inr ((plainExchanges_protoAt (u, w, v) hmem).trans (congrArg protoAt h).symm)
  | readRequest _ _ h | writeCommand _ _ h | lastBeat _ _ h | bit _ _ h | lastBitOfByte _ _ h | lastBit _ _ h
  | reportProgress _ h => exact .inr (congrArg protoAt h :).symm

/-- In a Read or a Write `SEL` is not written (R25). -/
theorem stepTo_keeps_sel {s t : State} (hp : protoAt s.upc ≠ .idle) (h : StepTo s t) : t.sel = s.sel := by
  cases h with
  | poll _ _ hu => exact absurd (congrArg protoAt hu) hp
  | _ => rfl

/-- In a Write the identifier is only read (R34, R140). -/
theorem stepTo_writing_keeps_idBuf {s t : State} (hp : protoAt s.upc = .writing) (h : StepTo s t) :
    t.idBuf = s.idBuf := by
  cases h with
  | load _ _ hu | beat _ _ hu | lastBeat _ _ hu => simp [hu, protoAt] at hp
  | _ => rfl

/-- In a Read `BIT` is not written (R24). -/
theorem stepTo_reading_keeps_bit {s t : State} (hp : protoAt s.upc = .reading) (h : StepTo s t) : t.bit = s.bit := by
  cases h with
  | writeCommand _ _ hu | bit _ _ hu | lastBitOfByte _ _ hu => simp [hu, protoAt] at hp
  | _ => rfl

/-- What the micro-steps of one routine leave unchanged, the whole routine, entered anywhere in it, does. -/
theorem runRoutine_keeps_register {α : Type} {f : State → α} {p : Proto} (hp : p ≠ .idle)
    (hstep : ∀ s t, protoAt s.upc = p → StepTo s t → f t = f s) {n : Nat} {s t : State} (hs : protoAt s.upc = p)
    (h : runRoutine n s = .next t) : f t = f s := by
  have hkeep : f t = f s ∧ (t.upc = .idle ∨ protoAt t.upc = p) := by
    refine runRoutine_keeps (P := fun t => f t = f s ∧ (t.upc = .idle ∨ protoAt t.upc = p)) ?_ ⟨rfl, .inr hs⟩ h
    rintro t u hu ⟨hf, hidle | hpt⟩ htu
    · exact absurd hidle hu
    · have hgo := stepTo_stays_or_ends (hpt ▸ hp) htu
      exact ⟨(hstep t u hpt htu).trans hf, hpt ▸ hgo⟩
  exact hkeep.1

/-! ## The frame of every row -/

theorem execReadId_frame {s t : State} (h : execReadId s = .next t) : RegisterFrame .readId s t := by
  unfold execReadId at h
  have hsel := runRoutine_keeps_register (f := State.sel) (p := .reading) nofun
    (fun _ _ hp => stepTo_keeps_sel (by simp [hp])) rfl h
  have hbit := runRoutine_keeps_register (f := State.bit) (p := .reading) nofun
    (fun _ _ => stepTo_reading_keeps_bit) rfl h
  exact ⟨nofun, fun _ => hsel, nofun, fun _ => hbit, nofun, nofun⟩

theorem execWriteId_frame {s t : State} (h : execWriteId s = .next t) : RegisterFrame .writeId s t := by
  unfold execWriteId at h
  have hid := runRoutine_keeps_register (f := State.idBuf) (p := .writing) nofun
    (fun _ _ => stepTo_writing_keeps_idBuf) rfl h
  have hsel := runRoutine_keeps_register (f := State.sel) (p := .writing) nofun
    (fun _ _ hp => stepTo_keeps_sel (by simp [hp])) rfl h
  exact ⟨fun _ => hid, fun _ => hsel, nofun, nofun, nofun, nofun⟩

theorem execUIdle_frame {s t : State} (h : execUIdle s = .next t) : RegisterFrame .uIdle s t := by
  unfold execUIdle at h
  split at h
  · exact .of_next h (.refl s)
  · exact .of_next h (.takeCommand (RegisterFrame.commandTaken_uIdle _))

/-- A row writes no register but those the lists of `writesId` to `writesSt` name for it. -/
theorem exec_frame {i : Instr} {s t : State} (h : exec i s = .next t) : RegisterFrame i s t := by
  cases i with
  | pollC => exact .of_next h (.takeCommand fun _ => .complete rfl rfl)
  | pollR | pollW => exact .of_next h (.takeCommand fun m => (RegisterFrame.setSel rfl).trans (.goto _ .pRst))
  | load => exact .of_next h (.takeCommand fun _ => .loadTaken rfl rfl rfl)
  | readId => exact execReadId_frame h
  | writeId => exact execWriteId_frame h
  | reset | skipRom | writeByte | writeBit | readBytes | delay | resetWord | skipRomWord | wbReadRom | wbWriteMode
  | wbWriteRom | wbit0 | wbit1 | rb8 | dly20 | dly25 | cmdReadRom | cmdWriteMode | cmdWriteRom =>
    exact .of_next h (.exchange fun _ m => .refl m)
  | rptWaiting | rptIdentifier | rptWriteProgress | rptWriteComplete => exact .of_next h (.sendReport .refl)
  | cplNone => exact ⟨nofun, nofun, nofun, nofun, nofun, nofun⟩
  | cplNoDevice | cplReadDone | cplWriteDone | cplUserCancel | cplLoaded => exact .of_next h (.complete rfl rfl)
  | uIdle => exact execUIdle_frame h
  | uPRst => exact .of_next h (.exchange RegisterFrame.dispatchPoll_uPRst)
  | uRReq => exact .of_next h (.exchange fun _ _ => (RegisterFrame.setByte rfl).trans (.goto _ _))
  | uRData => exact .of_next h (.takeBeat RegisterFrame.storeBeat_uRData)
  | uWCmd =>
    exact .of_next h (.exchange fun _ _ =>
      (RegisterFrame.setByte rfl).trans ((RegisterFrame.setBit rfl).trans (.goto _ _)))
  | uWBit => exact .of_next h (.exchange fun _ => RegisterFrame.nextBit_uWBit)
  | uPNodev | uRRpt | uWDone => exact .of_next h (.sendReport fun _ => .complete rfl rfl)
  | uWProg => exact .of_next h (.sendReport fun m => .goto m .wRst1)
  | uRCmd | uWRst1 | uWSkip | uWSettle | uWEnter | uWRst2 | uWBdly | uWRst3 | uWExit | uWRst4 =>
    exact .of_next h (.exchange fun _ m => .goto m _)

theorem memory_congr {s t : State} (h : t.idBuf = s.idBuf) : t.memory = s.memory := by
  simp [State.memory, h]

/-- Settles O52: `exec_frame` for a row, and its memory is a view of the identifier buffer; in a Write
`stepTo_writing_keeps_idBuf`. -/
theorem identifierFrame : Obligations.IdentifierFrame := by
  refine ⟨fun i s t hw h => ?_, fun s t hp hrst h => ?_⟩
  · have hid := (exec_frame h).idBuf hw
    exact ⟨hid, memory_congr hid⟩
  · exact stepTo_writing_keeps_idBuf (s := s.tick) hp (stepTo_of_released hrst h)

/-- Settles O53, by `exec_frame`. -/
theorem hiddenRegisterFrame : Obligations.HiddenRegisterFrame := by
  intro i s t h
  have hf := exec_frame h
  exact ⟨hf.sel, hf.byte, hf.bit⟩

/-- Settles O54, by `exec_frame`. -/
theorem statusRegisterFrame : Obligations.StatusRegisterFrame := by
  intro i s t h
  have hf := exec_frame h
  exact ⟨hf.res, hf.st⟩

/-- A micro-step that writes `RES` returns the same code, last (R26). -/
theorem stepTo_res {s t : State} (h : StepTo s t) :
    t.res = s.res ∨ ∃ es, t.trace = s.trace ++ es ++ [.completion t.res.code] := by
  cases h with
  | load w | cancel w => exact .inr ⟨[.command w], by simp [Completion.code]⟩
  | reportNoDevice => exact .inr ⟨[.report 0#66], by simp [Completion.code]⟩
  | reportIdentifier => exact .inr ⟨[.report (identifierReport s.idBuf)], by simp [Completion.code]⟩
  | reportComplete => exact .inr ⟨[.report 3#66], by simp [Completion.code]⟩
  | _ => exact .inl rfl

/-- Settles O55: with `rst` released a step is a micro-step, and `stepTo_res` says what that does to `RES`. -/
theorem resWrittenOnlyByCompletion : Obligations.ResWrittenOnlyByCompletion := by
  intro s t hrst h
  exact stepTo_res (s := s.tick) (stepTo_of_released hrst h)

end Sys2Proof.Proofs
end

section
/-! The identifier buffer as one value and the Bus Session along a run (20_memory.md R52, R62, R63). -/

namespace Sys2Proof.Proofs

open Sys2Proof.Machine Sys2Proof.Laws

/-! ## The Bus Session (R62) -/

/-- Settles O48: the invariant holds the trace's session, and `sessionInv_step` carries it over a step. -/
theorem busSessionKept : Obligations.BusSessionKept :=
  ⟨fun _ => busSessionOk_of_sessionInv, fun _ _ => sessionInv_step⟩

/-! ## The packing of the identifier (R52, R63) -/

/-- Bits `[8k+7 : 8k]` of a packed identifier are its byte `k`. -/
theorem extractLsb'_idValue (p : IdBuf) (k : BitVec 3) : (idValue p).extractLsb' (8 * k.toNat) 8 = idGet p k := by
  match k with
  | 0#3 | 1#3 | 2#3 | 3#3 | 4#3 | 5#3 | 6#3 | 7#3 =>
    -- the width as the sum of the eight bytes' widths, the form the rules for `++` are stated in
    change BitVec.extractLsb' (n := 8 + 8 + 8 + 8 + 8 + 8 + 8 + 8) _ 8 _ = _
    simp only [idValue, idGet, BitVec.extractLsb'_append_eq_of_le, BitVec.extractLsb'_append_eq_right,
      BitVec.extractLsb'_eq_self, BitVec.toNat_ofNat, Nat.reducePow, Nat.reduceMod, Nat.reduceMul, Nat.reduceLeDiff,
      Nat.reduceSub, Nat.le_refl]

/-- Two values with the same eight bytes are the same value. -/
theorem value_ext {v w : BitVec 64}
    (h : ∀ k : BitVec 3, v.extractLsb' (8 * k.toNat) 8 = w.extractLsb' (8 * k.toNat) 8) : v = w := by
  apply BitVec.eq_of_getLsbD_eq
  intro i hi
  have hbit := congrArg (·.getLsbD (i % 8)) (h (BitVec.ofNat 3 (i / 8)))
  have hbyte : i / 8 % 8 = i / 8 := Nat.mod_eq_of_lt (by omega)
  simpa [BitVec.getLsbD_extractLsb', Nat.mod_lt, hbyte, Nat.div_add_mod] using hbit

/-- Settles O6: both ways of packing by `idGet_idOfValue` and `extractLsb'_idValue`, each byte by byte. -/
theorem identifierPacking : Obligations.IdentifierPacking := by
  refine ⟨idGet_idOfValue, fun v k j => ?_, extractLsb'_idValue, fun v => ?_, fun p => ?_⟩
  · rw [idGet_idOfValue, BitVec.getLsbD_extractLsb']
    simp [j.isLt]
  · exact value_ext fun k => by rw [extractLsb'_idValue, idGet_idOfValue]
  · exact idBuf_ext fun k => by rw [idGet_idOfValue, extractLsb'_idValue]

end Sys2Proof.Proofs
end

section
/-! The messages of one row (20_memory.md R54, R56; 30_encoding.md R82, R83; 40_bus_transport.md R101): which message a
micro-step exchanges, and what a row takes from the other agents' offers. -/

namespace Sys2Proof.Proofs

open Sys2Proof.Machine Sys2Proof.Laws

/-- `t` has the channels and the trace of `s`: only registers differ (R20). -/
structure SameChannels (s t : State) : Prop where
  trace : t.trace = s.trace
  replies : t.replies = s.replies
  cmds : t.cmds = s.cmds
  owed : t.owed = s.owed
  acks : t.acks = s.acks
  rst : t.rst = s.rst

namespace SameChannels

/-- A write of registers alone. -/
theorem registers (s : State) (idBuf : IdBuf) (st : Proto) (upc : MicroStep) (byte bit : BitVec 3) (sel : Bool)
    (res : Completion) :
    SameChannels s { s with idBuf := idBuf, st := st, upc := upc, byte := byte, bit := bit, sel := sel, res := res } :=
  ⟨rfl, rfl, rfl, rfl, rfl, rfl⟩

theorem dispatchPoll (r : TsWord) (s : State) : SameChannels s (dispatchPoll r s) := by
  rcases dispatchPoll_cases r s with ⟨-, h⟩ | ⟨-, -, h⟩ | ⟨-, -, h⟩ <;> rw [h] <;> exact registers ..

theorem storeBeat (d : Byte) (s : State) : SameChannels s (storeBeat d s) := by
  rcases storeBeat_cases d s with ⟨-, h⟩ | ⟨-, h⟩ <;> rw [h] <;> exact registers ..

theorem nextBit (s : State) : SameChannels s (nextBit s) := by
  rcases nextBit_cases s with ⟨-, h⟩ | ⟨-, -, h⟩ | ⟨-, -, h⟩ <;> rw [h] <;> exact registers ..

end SameChannels

/-! ## The message offered is the one exchanged (R82, R83) -/

/-- With `rst` released a step is what the micro-step at `UPC` does. -/
theorem step_released {s : State} (h : s.rstNow = false) : step s = microStep s.tick := by
  rw [step, h, ← exec_fetch]
  rfl

/-- The micro-step at `UPC` is the row of that name. -/
theorem microStep_eq_exec {s : State} {u : MicroStep} (h : s.upc = u) : microStep s = exec (instrAt u) s := by
  subst h
  unfold microStep
  cases s.upc <;> rfl

/-- Of the request words the engine issues only `READBYTES(8)` is due beats, eight (R72, R73). -/
theorem beatsDue_issued : ∀ w ∈ issuedWords, beatsDue w = if w = 0x408#11 then 8 else 0 := by
  simp [issuedWords, beatsDue, trReq, trArg]

/-- The micro-step at `UPC` is the exchange of the request word offered; what it then does writes registers alone. -/
theorem microStep_of_treqWord {s : State} {w : TrWord} (h : treqWord s = some w) :
    w ∈ issuedWords ∧ ∃ k, microStep s = .next (exchange w k s) ∧ ∀ r m, SameChannels m (k r m) := by
  cases hu : s.upc with
  | idle | pNodev | rData | rRpt | wProg | wDone => simp [treqWord, hu] at h
  | pRst =>
    obtain rfl : trWord .reset 0#8 = w := by simpa [treqWord, hu] using h
    exact ⟨by decide, dispatchPoll, microStep_eq_exec hu, SameChannels.dispatchPoll⟩
  | wBit =>
    obtain rfl : bitRequest s = w := by simpa [treqWord, hu, bitRequest] using h
    exact ⟨bitRequest_issued s, _, microStep_eq_exec hu, fun _ => SameChannels.nextBit⟩
  | rCmd | rReq | wRst1 | wSkip | wSettle | wEnter | wRst2 | wCmd | wBdly | wRst3 | wExit | wRst4 =>
    simp only [treqWord, hu, Option.some.injEq] at h
    subst h
    exact ⟨by decide, _, microStep_eq_exec hu, fun _ _ => .registers ..⟩

/-- The micro-step at `UPC` makes the report offered, and goes on or completes the command. -/
theorem microStep_of_rptWord {s : State} {w : RpWord} (h : rptWord s = some w) :
    ∃ k, microStep s = .next (sendReport w k s) ∧ (k = (·.goto .wRst1) ∨ ∃ c, k = complete c) := by
  cases hu : s.upc with
  | pNodev | rRpt | wDone =>
    simp only [rptWord, hu, Option.some.injEq] at h
    subst h
    exact ⟨_, microStep_eq_exec hu, .inr ⟨_, rfl⟩⟩
  | wProg =>
    simp only [rptWord, hu, Option.some.injEq] at h
    subst h
    exact ⟨_, microStep_eq_exec hu, .inl rfl⟩
  | _ => simp [rptWord, hu] at h

theorem microStep_of_wantsBeat {s : State} (h : wantsBeat s = true) : microStep s = .next (takeBeat storeBeat s) :=
  microStep_eq_exec (eq_of_beq h)

/-- Settles O36: with `rst` released the step is the micro-step at `UPC`, an exchange of the request word, the beat or
the report it offers; with an answer that message is exchanged, and what follows it writes registers alone, but for the
completion after a report. -/
theorem offeredMessageIsTheOneExchanged : Obligations.OfferedMessageIsTheOneExchanged := by
  intro s hrst
  rw [step_released hrst]
  refine ⟨fun w r rest hw hr => ?_, fun d rest hb ho => ?_, fun w n hw ha => ?_⟩
  · obtain ⟨hissued, k, hstep, hk⟩ := microStep_of_treqWord (s := s.tick) hw
    rw [exchange_cons w k (s := s.tick) hr, beatsDue_issued w hissued] at hstep
    refine ⟨_, hstep, (hk _ _).trace, (hk _ _).replies, (hk _ _).owed.trans ?_, (hk _ _).acks⟩
    split <;> rfl
  · have hstep := microStep_of_wantsBeat (s := s.tick) hb
    rw [takeBeat_cons storeBeat (s := s.tick) ho] at hstep
    have hsame := SameChannels.storeBeat d
    exact ⟨_, hstep, (hsame _).trace, (hsame _).owed, (hsame _).replies, (hsame _).acks⟩
  · obtain ⟨k, hstep, hk⟩ := microStep_of_rptWord (s := s.tick) hw
    rw [sendReport_succ w k (s := s.tick) ha] at hstep
    refine ⟨_, hstep, ?_⟩
    obtain rfl | ⟨c, rfl⟩ := hk
    · exact ⟨rfl, rfl, rfl, .inl rfl⟩
    · exact ⟨rfl, rfl, rfl, .inr (by simp)⟩

/-! ## What a row takes from the offers (R54, R56, R101) -/

/-- `t` comes from `s` by messages of row `i`: the trace only grows, the offers are taken from the front, and beats come
to be owed only where `i` accepts a `READBYTES`. -/
structure ChannelFrame (i : Instr) (s t : State) : Prop where
  trace : s.trace <+: t.trace
  replies : t.replies <:+ s.replies
  cmds : t.cmds <:+ s.cmds
  acks : t.acks ≤ s.acks
  rst : t.rst = s.rst
  owed : acceptsBeats i = false → t.owed <:+ s.owed

namespace ChannelFrame

variable {i : Instr}

/-! ### Rules that compose -/

theorem of_same {s t : State} (h : SameChannels s t) : ChannelFrame i s t where
  trace := by rw [h.trace]
  replies := by rw [h.replies]
  cmds := by rw [h.cmds]
  acks := by rw [h.acks]
  rst := h.rst
  owed _ := by rw [h.owed]

theorem refl (s : State) : ChannelFrame i s s := of_same ⟨rfl, rfl, rfl, rfl, rfl, rfl⟩

theorem trans {s t u : State} (h : ChannelFrame i s t) (k : ChannelFrame i t u) : ChannelFrame i s u where
  trace := h.trace.trans k.trace
  replies := k.replies.trans h.replies
  cmds := k.cmds.trans h.cmds
  acks := k.acks.trans h.acks
  rst := k.rst.trans h.rst
  owed hi := (k.owed hi).trans (h.owed hi)

/-! ### One rule for each kind of message taken -/

theorem answered {s : State} {r : Reply} {rest : List Reply} {owed : List Byte} (es : List Event)
    (hr : s.replies = r :: rest) (ho : acceptsBeats i = false → owed = []) :
    ChannelFrame i s { s with replies := rest, owed := owed, trace := s.trace ++ es } :=
  { refl (i := i) s with
    trace := List.prefix_append ..
    replies := hr ▸ List.suffix_cons ..
    owed := fun hi => by simp [ho hi] }

theorem beatTaken {s : State} {d : Byte} {rest : List Byte} (es : List Event) (ho : s.owed = d :: rest) :
    ChannelFrame i s { s with owed := rest, trace := s.trace ++ es } :=
  { refl (i := i) s with trace := List.prefix_append .., owed := fun _ => ho ▸ List.suffix_cons .. }

theorem reportTaken {s : State} {n : Nat} (es : List Event) (ha : s.acks = n + 1) :
    ChannelFrame i s { s with acks := n, trace := s.trace ++ es } :=
  { refl (i := i) s with trace := List.prefix_append .., acks := ha ▸ n.le_succ }

theorem commandTaken {s : State} {rest : List HcWord} (es : List Event) (hc : rest <:+ s.cmds) :
    ChannelFrame i s { s with cmds := rest, trace := s.trace ++ es } :=
  { refl (i := i) s with trace := List.prefix_append .., cmds := hc }

theorem completed (c : Completion) (s : State) : ChannelFrame i s (complete c s) :=
  { refl (i := i) s with trace := List.prefix_append .. }

/-! ### One rule for each operation: it takes its message and what its continuation takes -/

theorem exchange {w : TrWord} {k : TsWord → State → State} {s : State} (hw : acceptsBeats i = false → beatsDue w = 0)
    (hk : ∀ r m, SameChannels m (k r m)) : ChannelFrame i s (exchange w k s) := by
  rcases exchange_cases w k s with ⟨-, h⟩ | ⟨r, rest, hr, h⟩ <;> rw [h]
  · exact refl s
  · exact (answered _ hr fun hi => by simp [hw hi]).trans (of_same (hk _ _))

theorem takeBeat (s : State) : ChannelFrame i s (takeBeat storeBeat s) := by
  rcases takeBeat_cases storeBeat s with ⟨-, h⟩ | ⟨d, rest, ho, h⟩ <;> rw [h]
  · exact refl s
  · exact (beatTaken _ ho).trans (of_same (.storeBeat _ _))

theorem sendReport {w : RpWord} {k : State → State} {s : State} (hk : ∀ m, ChannelFrame i m (k m)) :
    ChannelFrame i s (sendReport w k s) := by
  rcases sendReport_cases w k s with ⟨-, h⟩ | ⟨n, ha, h⟩ <;> rw [h]
  · exact refl s
  · exact (reportTaken _ ha).trans (hk _)

theorem takeCommand {w : HcWord} {k : State → State} {s : State} (hk : ∀ m, ChannelFrame i m (k m)) :
    ChannelFrame i s (takeCommand w k s) := by
  rcases takeCommand_cases w k s with ⟨-, h⟩ | ⟨-, h⟩ <;> rw [h]
  · exact refl s
  · exact (commandTaken _ (List.tail_suffix _)).trans (hk _)

theorem pollTaken (select cancel : Bool) (s : State) : ChannelFrame i s (pollTaken select cancel s) := by
  rcases pollTaken_cases select cancel s with ⟨-, h⟩ | ⟨-, h⟩ <;> rw [h]
  · exact completed _ s
  · exact of_same (.registers ..)

theorem loadTaken (v : BitVec 64) (s : State) : ChannelFrame i s (loadTaken v s) :=
  { completed (i := i) .loaded s with }

theorem execUIdle {s t : State} (h : execUIdle s = .next t) : ChannelFrame i s t := by
  unfold Machine.execUIdle at h
  split at h <;> cases h
  · exact refl s
  · refine takeCommand fun m => ?_
    unfold Machine.commandTaken
    split
    · exact loadTaken _ m
    · exact pollTaken _ _ m

/-- A row whose meaning is one operation. -/
theorem of_next {s t u : State} (h : (.next u : Host.Outcome State Fault Refusal) = .next t)
    (hu : ChannelFrame i s u) : ChannelFrame i s t := by
  cases h; exact hu

end ChannelFrame

/-! ### The routines -/

/-- A micro-step takes its message; only at `U_R_REQ` do beats come to be owed. -/
theorem stepTo_channelFrame {i : Instr} {s t : State} (hi : s.upc = .rReq → acceptsBeats i = true) (h : StepTo s t) :
    ChannelFrame i s t := by
  cases h with
  | wait => exact .refl s
  | load _ _ _ hc | cancel _ _ _ hc | poll _ _ _ hc =>
    exact { ChannelFrame.commandTaken (i := i) _ (hc ▸ List.suffix_cons ..) with }
  | readRequest _ _ hu hr =>
    exact { ChannelFrame.answered (i := i) _ hr fun hno => absurd (hi hu) (by simp [hno]) with }
  | noDevice _ _ _ hr | dispatchRead _ _ _ hr | dispatchWrite _ _ _ hr | plainExchange _ _ _ _ _ _ _ hr
  | writeCommand _ _ _ hr | bit _ _ _ hr | lastBitOfByte _ _ _ hr | lastBit _ _ _ hr =>
    exact { ChannelFrame.answered (i := i) _ hr fun _ => rfl with }
  | beat _ _ _ ho | lastBeat _ _ _ ho => exact { ChannelFrame.beatTaken (i := i) _ ho with }
  | reportNoDevice _ _ ha | reportIdentifier _ _ ha | reportProgress _ _ ha | reportComplete _ _ ha =>
    exact { ChannelFrame.reportTaken (i := i) _ ha with }

/-- A routine takes what its micro-steps take. -/
theorem runRoutine_channelFrame {i : Instr} {p : Proto} (hp : p ≠ .idle) (hi : p = .reading → acceptsBeats i = true)
    {n : Nat} {s t : State} (hs : protoAt s.upc = p) (h : runRoutine n s = .next t) : ChannelFrame i s t := by
  have hkeep : ChannelFrame i s t ∧ (t.upc = .idle ∨ protoAt t.upc = p) := by
    refine runRoutine_keeps (P := fun t => ChannelFrame i s t ∧ (t.upc = .idle ∨ protoAt t.upc = p)) ?_
      ⟨.refl s, .inr hs⟩ h
    rintro t u hu ⟨hf, hidle | hpt⟩ htu
    · exact absurd hidle hu
    · have hgo := stepTo_stays_or_ends (hpt ▸ hp) htu
      have hstep := stepTo_channelFrame (i := i) (fun hreq => hi (hpt.symm.trans (congrArg protoAt hreq))) htu
      exact ⟨hf.trans hstep, hpt ▸ hgo⟩
  exact hkeep.1

/-! ### Every row -/

theorem exec_channelFrame {i : Instr} {s t : State} (h : exec i s = .next t) : ChannelFrame i s t := by
  cases i with
  | pollC | pollR | pollW => exact .of_next h (.takeCommand (.pollTaken _ _))
  | load => exact .of_next h (.takeCommand (.loadTaken _))
  | readId =>
    exact (ChannelFrame.of_same (.registers ..)).trans
      (runRoutine_channelFrame (p := .reading) nofun (fun _ => rfl) rfl h)
  | writeId =>
    exact (ChannelFrame.of_same (.registers ..)).trans (runRoutine_channelFrame (p := .writing) nofun nofun rfl h)
  | readBytes | rb8 | uRReq => exact .of_next h (.exchange nofun fun _ m => .registers m ..)
  | reset | skipRom | writeByte | writeBit | delay | cmdReadRom | cmdWriteMode | cmdWriteRom =>
    exact .of_next h (.exchange (fun _ => by simp) fun _ m => .registers m ..)
  | resetWord | skipRomWord | wbReadRom | wbWriteMode | wbWriteRom | wbit0 | wbit1 | dly20 | dly25 =>
    exact .of_next h (.exchange (fun _ => rfl) fun _ m => .registers m ..)
  | rptWaiting | rptIdentifier | rptWriteProgress | rptWriteComplete => exact .of_next h (.sendReport .refl)
  | cplNone => exact .of_next h { ChannelFrame.refl (i := .cplNone) s with owed := fun _ => List.nil_suffix }
  | cplNoDevice | cplReadDone | cplWriteDone | cplUserCancel | cplLoaded => exact .of_next h (.completed _ s)
  | uIdle => exact .execUIdle h
  | uPRst => exact .of_next h (.exchange (fun _ => rfl) .dispatchPoll)
  | uRData => exact .of_next h (.takeBeat s)
  | uWBit => exact .of_next h (.exchange (fun _ => beatsDue_bitRequest s) fun _ => .nextBit)
  | uPNodev | uRRpt | uWDone => exact .of_next h (.sendReport (.completed _))
  | uWProg => exact .of_next h (.sendReport fun m => .of_same (.registers m ..))
  | uRCmd | uWRst1 | uWSkip | uWSettle | uWEnter | uWRst2 | uWCmd | uWBdly | uWRst3 | uWExit | uWRst4 =>
    exact .of_next h (.exchange (fun _ => rfl) fun _ m => .registers m ..)

/-- Settles O57, by `exec_channelFrame`. -/
theorem traceOnlyGrows : Obligations.TraceOnlyGrows := by
  intro i s t h
  have hf := exec_channelFrame h
  exact ⟨hf.trace, hf.replies, hf.cmds, hf.acks, hf.rst, hf.owed⟩

end Sys2Proof.Proofs
end

section
/-! The words of the formats and their bytes (30_encoding.md R70 to R82): the fields of a word, the decoder of each
format, and that decoder and encoder undo each other. -/

namespace Sys2Proof.Proofs

open Sys2Proof.Machine Sys2Proof.Laws

/-! ## The fields of a word put together from fields -/

@[simp] theorem hcOp_hcWord (op select cancel : Bool) (v : BitVec 64) : hcOp (hcWord op select cancel v) = op := by
  simp only [hcOp, hcWord, BitVec.getLsbD_append, BitVec.getLsbD_ofBool]
  simp

@[simp] theorem hcSelect_hcWord (op select cancel : Bool) (v : BitVec 64) :
    hcSelect (hcWord op select cancel v) = select := by
  simp only [hcSelect, hcWord, BitVec.getLsbD_append, BitVec.getLsbD_ofBool]
  simp

@[simp] theorem hcCancel_hcWord (op select cancel : Bool) (v : BitVec 64) :
    hcCancel (hcWord op select cancel v) = cancel := by
  simp only [hcCancel, hcWord, BitVec.getLsbD_append, BitVec.getLsbD_ofBool]
  simp

@[simp] theorem hcPayload_hcWord (op select cancel : Bool) (v : BitVec 64) :
    hcPayload (hcWord op select cancel v) = v :=
  calc hcPayload (hcWord op select cancel v)
    _ = (v ++ BitVec.ofBool cancel ++ BitVec.ofBool select).extractLsb' 2 64 :=
      BitVec.extractLsb'_append_eq_of_le (by decide)
    _ = (v ++ BitVec.ofBool cancel).extractLsb' 1 64 := BitVec.extractLsb'_append_eq_of_le (by decide)
    _ = v := BitVec.extractLsb'_append_eq_left

@[simp] theorem trReq_trWord (q : TrReq) (arg : Byte) : trReq (trWord q arg) = q.code :=
  BitVec.extractLsb'_append_eq_left

@[simp] theorem trArg_trWord (q : TrReq) (arg : Byte) : trArg (trWord q arg) = arg :=
  BitVec.extractLsb'_append_eq_right

@[simp] theorem rpRpt_rpWord (r : Report) (data : BitVec 64) : rpRpt (rpWord r data) = r.code :=
  BitVec.extractLsb'_append_eq_right

@[simp] theorem rpData_rpWord (r : Report) (data : BitVec 64) : rpData (rpWord r data) = data :=
  BitVec.extractLsb'_append_eq_left

/-! ## Every word is put together from fields -/

/-- Every request code but 6 and 7 is that of a request (R72, R79). -/
theorem exists_trReq_code (c : BitVec 3) : (∃ q : TrReq, q.code = c) ∨ 6#3 ≤ c := by
  match c with
  | 0#3 => exact .inl ⟨.reset, rfl⟩
  | 1#3 => exact .inl ⟨.skipRom, rfl⟩
  | 2#3 => exact .inl ⟨.writeByte, rfl⟩
  | 3#3 => exact .inl ⟨.writeBit, rfl⟩
  | 4#3 => exact .inl ⟨.readBytes, rfl⟩
  | 5#3 => exact .inl ⟨.delay, rfl⟩
  | 6#3 | 7#3 => exact .inr (by decide)

/-- A request word is a request with its argument, or its request code is reserved. -/
theorem trWord_or_reserved (w : TrWord) : (∃ q arg, trWord q arg = w) ∨ 6#3 ≤ trReq w :=
  (exists_trReq_code (trReq w)).imp_left fun ⟨q, hq⟩ =>
    ⟨q, trArg w, by rw [trWord, hq]; exact BitVec.extractLsb'_append_extractLsb'⟩

/-- Every report code is that of a report (R74). -/
theorem exists_report_code (c : BitVec 2) : ∃ r : Report, r.code = c := by
  match c with
  | 0#2 => exact ⟨.waiting, rfl⟩
  | 1#2 => exact ⟨.identifier, rfl⟩
  | 2#2 => exact ⟨.writeProgress, rfl⟩
  | 3#2 => exact ⟨.writeComplete, rfl⟩

/-- A report word is a report with its data. -/
theorem exists_rpWord (w : RpWord) : ∃ r data, rpWord r data = w := by
  obtain ⟨r, hr⟩ := exists_report_code (rpRpt w)
  exact ⟨r, rpData w, by rw [rpWord, hr]; exact BitVec.extractLsb'_append_extractLsb'⟩

/-! ## The decoder of each format -/

/-! ### Host command words (R71, R78) -/

theorem decodeHc_load {w : HcWord} (ho : hcOp w = true) :
    decodeHc w = .load (hcSelect w) (hcCancel w) (hcPayload w) := by
  simp [decodeHc, ho]

theorem decodeHc_pollC {w : HcWord} (ho : hcOp w = false) (hc : hcCancel w = true) :
    decodeHc w = .pollC (hcSelect w) (hcPayload w) := by
  simp [decodeHc, ho, hc]

theorem decodeHc_pollR {w : HcWord} (ho : hcOp w = false) (hc : hcCancel w = false) (hs : hcSelect w = false) :
    decodeHc w = .pollR (hcPayload w) := by
  simp [decodeHc, ho, hc, hs]

theorem decodeHc_pollW {w : HcWord} (ho : hcOp w = false) (hc : hcCancel w = false) (hs : hcSelect w = true) :
    decodeHc w = .pollW (hcPayload w) := by
  simp [decodeHc, ho, hc, hs]

/-- A host command word is the encoding of its form, and no bit is lost. -/
theorem encode_decodeHc (w : HcWord) : (decodeHc w).format = .hc ∧ encode (decodeHc w) = w.toNat := by
  suffices h : (decodeHc w).format = .hc ∧
      encode (decodeHc w) = (hcWord (hcOp w) (hcSelect w) (hcCancel w) (hcPayload w)).toNat by
    rwa [hcWord_fields] at h
  cases ho : hcOp w with
  | true => rw [decodeHc_load ho]; exact ⟨rfl, rfl⟩
  | false =>
    cases hc : hcCancel w with
    | true => rw [decodeHc_pollC ho hc]; exact ⟨rfl, rfl⟩
    | false =>
      cases hs : hcSelect w with
      | false => rw [decodeHc_pollR ho hc hs]; exact ⟨rfl, rfl⟩
      | true => rw [decodeHc_pollW ho hc hs]; exact ⟨rfl, rfl⟩

/-! ### Request and report words (R72, R74) -/

theorem decodeTr_reserved {w : TrWord} (h : 6#3 ≤ trReq w) : decodeTr w = .rejected .reservedRequest := by
  obtain h6 | h7 : (trReq w).toNat = 6 ∨ (trReq w).toNat = 7 := by bv_omega
  · simp [decodeTr, h6]
  · simp [decodeTr, h7]

/-- A request word that decodes is the encoding of its request. -/
theorem encode_of_decodeTr {w : TrWord} {i : Instr} (h : decodeTr w = .instr i) :
    i.format = .tr ∧ encode i = w.toNat := by
  obtain ⟨q, arg, rfl⟩ | hres := trWord_or_reserved w
  · cases q with
    | reset | skipRom | writeBit =>
      simp only [decodeTr, trReq_trWord, trArg_trWord, TrReq.code] at h
      split_ifs at h <;> cases h <;> subst arg <;> exact ⟨rfl, rfl⟩
    | writeByte | readBytes | delay =>
      simp only [decodeTr, trReq_trWord, trArg_trWord, TrReq.code] at h
      cases h
      exact ⟨rfl, rfl⟩
  · simp [decodeTr_reserved hres] at h

/-- A report word that decodes is the encoding of its report. -/
theorem encode_of_decodeRp {w : RpWord} {i : Instr} (h : decodeRp w = .instr i) :
    i.format = .rp ∧ encode i = w.toNat := by
  obtain ⟨r, data, rfl⟩ := exists_rpWord w
  cases r with
  | waiting | writeProgress | writeComplete =>
    simp only [decodeRp, rpRpt_rpWord, rpData_rpWord, Report.code] at h
    split_ifs at h <;> cases h
    subst data
    exact ⟨rfl, rfl⟩
  | identifier =>
    simp only [decodeRp, rpRpt_rpWord, rpData_rpWord, Report.code] at h
    cases h
    exact ⟨rfl, rfl⟩

/-! ### Tables of whole words -/

/-- What is read from a table whose rows are encodings is decoded rightly. -/
theorem encode_of_decodeRow {f : Format} {rows : List Row}
    (hrows : ∀ r ∈ rows, r.instr.format = f ∧ encode r.instr = r.word) {why : Reject} {w : Nat} {i : Instr}
    (h : decodeRow rows why w = .instr i) : i.format = f ∧ encode i = w := by
  unfold decodeRow at h
  split at h
  next r hfind =>
    cases h
    obtain ⟨hformat, hword⟩ := hrows r (List.mem_of_find?_eq_some hfind)
    have hw : r.word = w := by simpa using List.find?_some hfind
    exact ⟨hformat, hword.trans hw⟩
  next => cases h

/-- A word that no row of the table has is rejected. -/
theorem decodeRow_rejected {rows : List Row} {w : Nat} (h : w ∉ rows.map Row.word) (why : Reject) :
    decodeRow rows why w = .rejected why := by
  have hnone : rows.find? (fun r => r.word == w) = none :=
    List.find?_eq_none.2 fun r hr hw => h (List.mem_map.2 ⟨r, hr, eq_of_beq hw⟩)
  simp [decodeRow, hnone]

/-! ### The decoder, given the format -/

/-- On a word of the format's width the decoder of the format answers. -/
theorem decodeWord_hc (w : HcWord) : decodeWord .hc w.toNat = .instr (decodeHc w) :=
  (if_neg (Nat.not_le.2 w.isLt)).trans (by simp)

theorem decodeWord_tr (w : TrWord) : decodeWord .tr w.toNat = decodeTr w :=
  (if_neg (Nat.not_le.2 w.isLt)).trans (by simp)

theorem decodeWord_rp (w : RpWord) : decodeWord .rp w.toNat = decodeRp w :=
  (if_neg (Nat.not_le.2 w.isLt)).trans (by simp)

theorem decodeWord_trIssued (w : TrWord) :
    decodeWord .trIssued w.toNat = decodeRow issuedRows .neverIssued w.toNat :=
  if_neg (Nat.not_le.2 w.isLt)

theorem decodeWord_wc (b : Byte) : decodeWord .wc b.toNat = decodeRow commandRows .notACommandByte b.toNat :=
  if_neg (Nat.not_le.2 b.isLt)

theorem decodeWord_cp (c : CpWord) :
    decodeWord .cp c.toNat = decodeRow completionRows .reservedCompletion c.toNat :=
  if_neg (Nat.not_le.2 c.isLt)

theorem decodeWord_upc (u : BitVec 5) : decodeWord .upc u.toNat = decodeRow microRows .reservedMicroStep u.toNat :=
  if_neg (Nat.not_le.2 u.isLt)

theorem decodeWord_routine (u : BitVec 5) :
    decodeWord .routine u.toNat = decodeRow routineRows .notARoutineEntry u.toNat :=
  if_neg (Nat.not_le.2 u.isLt)

/-- A word that decodes has no bit above the format's width (R80). -/
theorem lt_of_decodeWord {f : Format} {w : Nat} {i : Instr} (h : decodeWord f w = .instr i) : w < 2 ^ f.width := by
  by_contra hwide
  simp [decodeWord, Nat.le_of_not_lt hwide] at h

theorem encode_of_decodeWord {f : Format} {w : Nat} {i : Instr} (h : decodeWord f w = .instr i) :
    i.format = f ∧ encode i = w := by
  obtain ⟨v, rfl⟩ : ∃ v : BitVec f.width, v.toNat = w := ⟨.ofNatLT w (lt_of_decodeWord h), rfl⟩
  cases f with
  | hc =>
    cases (decodeWord_hc v).symm.trans h
    exact encode_decodeHc v
  | tr => exact encode_of_decodeTr ((decodeWord_tr v).symm.trans h)
  | rp => exact encode_of_decodeRp ((decodeWord_rp v).symm.trans h)
  | routine => exact encode_of_decodeRow (by decide) ((decodeWord_routine v).symm.trans h)
  | trIssued => exact encode_of_decodeRow (by decide) ((decodeWord_trIssued v).symm.trans h)
  | wc => exact encode_of_decodeRow (by decide) ((decodeWord_wc v).symm.trans h)
  | cp => exact encode_of_decodeRow (by decide) ((decodeWord_cp v).symm.trans h)
  | upc => exact encode_of_decodeRow (by decide) ((decodeWord_upc v).symm.trans h)

/-- An instruction's word decodes, in its format, to the instruction. -/
theorem decodeWord_encode (i : Instr) : decodeWord i.format (encode i) = .instr i := by
  cases i with
  | pollC | pollR | pollW | load => exact (decodeWord_hc _).trans (by simp [decodeHc])
  | reset | skipRom | writeByte | readBytes | delay =>
    exact (decodeWord_tr _).trans (by simp [decodeTr, TrReq.code])
  | writeBit v => cases v <;> exact (decodeWord_tr _).trans (by simp [decodeTr, TrReq.code])
  | rptWaiting | rptIdentifier | rptWriteProgress | rptWriteComplete =>
    exact (decodeWord_rp _).trans (by simp [decodeRp, Report.code])
  | _ => rfl -- a row of a table of whole words

/-! ## Words as bytes (log entry 4) -/

theorem length_toBytes (n w : Nat) : (toBytes n w).length = n := by
  induction n generalizing w with
  | zero => rfl
  | succ n ih => simp [toBytes, ih]

/-- A number that fits in the bytes is read back from them. -/
theorem ofBytes_toBytes {n w : Nat} (h : w < 256 ^ n) : ofBytes (toBytes n w) = w := by
  induction n generalizing w with
  | zero => exact (Nat.lt_one_iff.1 h).symm
  | succ n ih =>
    have hdiv : w / 256 < 256 ^ n := Nat.div_lt_of_lt_mul (by rwa [Nat.pow_succ'] at h)
    rw [toBytes, ofBytes, ih hdiv, BitVec.toNat_ofNat]
    exact Nat.mod_add_div w 256

/-- A format's bytes hold its words. -/
theorem two_pow_width_le (f : Format) : 2 ^ f.width ≤ 256 ^ f.bytes := by
  rw [show (256 : Nat) = 2 ^ 8 from rfl, ← Nat.pow_mul]
  exact Nat.pow_le_pow_right (by decide) (by unfold Format.bytes; omega)

/-- A word of the format decodes from its bytes as it does whole. -/
theorem decodeBytes_toBytes {f : Format} {w : Nat} (h : w < 2 ^ f.width) :
    decodeBytes f (toBytes f.bytes w) = decodeWord f w := by
  rw [decodeBytes, if_pos (length_toBytes ..), ofBytes_toBytes (h.trans_le (two_pow_width_le f))]

/-! ## The statements -/

/-- Settles O3: `decodeWord_encode` for the word; so the word fits its format, and its bytes carry it. -/
theorem decodeOfEncode : Obligations.DecodeOfEncode := by
  intro i
  have hword := decodeWord_encode i
  exact ⟨hword, (decodeBytes_toBytes (lt_of_decodeWord hword)).trans hword⟩

/-- Settles O4, by `encode_of_decodeWord`. -/
theorem encodeOfDecode : Obligations.EncodeOfDecode := fun _ _ _ => encode_of_decodeWord

/-- Settles O2: the four equations of `decodeHc`, one for each form, and `encode_decodeHc`. -/
theorem hostCommandForms : Obligations.HostCommandForms :=
  fun w => ⟨decodeHc_load, decodeHc_pollC, decodeHc_pollR, decodeHc_pollW, (encode_decodeHc w).2⟩

/-- Settles O1: each word is the encoding of what it stands for, so `decodeWord_encode` gives it back. -/
theorem wordsDecodeAsWritten : Obligations.WordsDecodeAsWritten :=
  ⟨decodeWord_encode (.pollR 0#64), decodeWord_encode (.pollW 0#64), decodeWord_encode (.pollC true 0#64),
    decodeWord_encode (.load false false 0xEFCDAB8967452301#64),
    decodeWord_encode (.load true true 0xEFCDAB8967452301#64), decodeWord_encode (.writeByte 0xD1#8),
    decodeWord_encode (.writeBit true), decodeWord_encode .rb8, decodeWord_encode .cmdReadRom,
    decodeWord_encode (.rptIdentifier 0xEFCDAB8967452301#64), decodeWord_encode .cplUserCancel,
    decodeWord_encode .uWBit, decodeWord_encode .writeId⟩

/-- Settles O5: a reserved request code has no request; a word of the other formats is looked up in a table that lists
exactly the words in use; a host command word always decodes. -/
theorem reservedEncodingsRejected : Obligations.ReservedEncodingsRejected := by
  refine ⟨fun w hw => ?_, fun w hw => ?_, fun c hc => ?_, fun u hu => ?_, fun b h33 hD1 hD5 => ?_, fun w => ?_⟩
  · rw [decodeWord_tr, decodeTr_reserved hw]
  · have hrows : issuedRows.map Row.word = issuedWords.map BitVec.toNat := rfl
    refine (decodeWord_trIssued w).trans (decodeRow_rejected ?_ _)
    rwa [hrows, List.mem_map_of_injective BitVec.toNat_injective]
  · have hrows : completionRows.map Row.word = List.range 6 := rfl
    refine (decodeWord_cp c).trans (decodeRow_rejected ?_ _)
    rw [hrows, List.mem_range]
    bv_omega
  · have hrows : microRows.map Row.word = List.range 20 := rfl
    refine (decodeWord_upc u).trans (decodeRow_rejected ?_ _)
    rw [hrows, List.mem_range]
    bv_omega
  · have hrows : commandRows.map Row.word = [0x33#8, 0xD1#8, 0xD5#8].map BitVec.toNat := rfl
    refine (decodeWord_wc b).trans (decodeRow_rejected ?_ _)
    rw [hrows, List.mem_map_of_injective BitVec.toNat_injective]
    simp [h33, hD1, hD5]
  · exact ⟨decodeHc w, decodeWord_hc w⟩

end Sys2Proof.Proofs
end

section
/-! The fetched instruction and the messages as rows of their own (30_encoding.md R72 to R76, R82;
43_dispatch_and_host.md R151, R159). -/

namespace Sys2Proof.Proofs

open Sys2Proof.Machine Sys2Proof.Laws

/-! ## Legal messages (R72, R74, R75, R79) -/

/-- Settles O47, by `traceLegal_step`. -/
theorem onlyLegalMessages : Obligations.OnlyLegalMessages := fun _ _ => traceLegal_step

/-! ## The fetched instruction (R82, R151) -/

/-- The row of a micro-step is encoded by the micro-step's number. -/
theorem encode_instrAt (u : MicroStep) : (instrAt u).format = .upc ∧ encode (instrAt u) = u.code.toNat := by
  cases u <;> exact ⟨rfl, rfl⟩

theorem decodeWord_code (u : MicroStep) : decodeWord .upc u.code.toNat = .instr (instrAt u) := by
  obtain ⟨hformat, hcode⟩ := encode_instrAt u
  rw [← hformat, ← hcode, decodeWord_encode]

theorem fetch_command {s : State} {w : HcWord} {rest : List HcWord} (hu : s.upc = .idle) (hc : s.cmds = w :: rest) :
    fetch s = decodeHc w := by
  simp [fetch, hu, hc]

/-- Settles O10: with `rst` released the step is the micro-step at `UPC`, which is the row of that number and, at
`U_IDLE` with a command offered, the instruction fetched. -/
theorem stepRunsTheFetchedInstruction : Obligations.StepRunsTheFetchedInstruction := by
  intro s hrst
  rw [step_released hrst]
  refine ⟨fun w rest i hu hc hi => ?_, fun hu _ => microStep_eq_exec (s := s.tick) hu, fun i _ hi => ?_⟩
  · rw [decodeWord_hc] at hi
    cases hi
    rw [← exec_fetch, fetch_command (s := s.tick) hu hc]
    rfl
  · rw [decodeWord_code] at hi
    cases hi
    exact microStep_eq_exec (s := s.tick) rfl

/-- A one-byte table word is read as a micro-step number first (log entry 3). -/
theorem decodeTableWord_code (u : MicroStep) : decodeTableWord 8 u.code.toNat = some (instrAt u) := by
  cases u <;> rfl

theorem placeInstr_instrAt (u : MicroStep) (s : State) : placeInstr (instrAt u) s = placeAt u s := by
  cases u <;> rfl

/-- Settles O11: the number decodes to its micro-step, placing it sets `UPC` with `rst` released, and the step is then
the micro-step at `UPC`. -/
theorem placedMicroStepRuns : Obligations.PlacedMicroStepRuns := by
  intro u
  refine ⟨decodeTableWord_code u, ?_⟩
  have hplace : State.reset.withFetchWord 8 u.code.toNat = placeAt u State.reset := by
    rw [State.withFetchWord, decodeTableWord_code]
    exact placeInstr_instrAt u _
  rw [hplace, step_of_rst_nil rfl, exec_fetch, microStep_eq_exec rfl]
  rfl

/-! ## The rows that are one message (log entry 7) -/

/-- A row that is one exchange: with an answer it takes it, is owed the beats due to its word, and writes no
register. -/
theorem exec_exchange {i : Instr} (w : TrWord) {s : State} {r : Reply} {rest : List Reply}
    (hi : exec i s = .next (exchange w (fun _ => done) s)) (hr : s.replies = r :: rest) :
    exec i s = .next { s with
      replies := rest, owed := r.beats.take (beatsDue w), trace := s.trace ++ [.exchange w r.rdata] } := by
  rw [hi, exchange_cons w _ hr, done]

/-- A row that is one report: when it is taken, no register is written. -/
theorem exec_report {i : Instr} {w : RpWord} {s : State} {n : Nat} (hi : exec i s = .next (sendReport w done s))
    (ha : s.acks = n + 1) : exec i s = .next { s with acks := n, trace := s.trace ++ [.report w] } := by
  rw [hi, sendReport_succ w done ha, done]

/-- Settles O30: each row is one exchange of its word, and only `READBYTES(8)` is due beats. -/
theorem issuedWordsExchange : Obligations.IssuedWordsExchange := by
  intro s r rest hr
  exact ⟨exec_exchange 0x000#11 rfl hr, exec_exchange 0x100#11 rfl hr, exec_exchange 0x233#11 rfl hr,
    exec_exchange 0x2D1#11 rfl hr, exec_exchange 0x2D5#11 rfl hr, exec_exchange 0x300#11 rfl hr,
    exec_exchange 0x301#11 rfl hr, exec_exchange 0x408#11 rfl hr, exec_exchange 0x514#11 rfl hr,
    exec_exchange 0x519#11 rfl hr⟩

/-- Settles O31: each row is one exchange of the `WRITEBYTE` that sends its byte. -/
theorem commandBytesSentByWriteByte : Obligations.CommandBytesSentByWriteByte :=
  fun _ _ _ hr =>
    ⟨exec_exchange 0x233#11 rfl hr, exec_exchange 0x2D1#11 rfl hr, exec_exchange 0x2D5#11 rfl hr⟩

/-- Settles O32: each row is one report of its word. -/
theorem reportsDelivered : Obligations.ReportsDelivered :=
  fun _ _ _ ha => ⟨exec_report rfl ha, exec_report rfl ha, exec_report rfl ha, exec_report rfl ha⟩

/-- Settles O34: the row is `resetEngine`, a record update with the reset values. -/
theorem noneCodeComesFromReset : Obligations.NoneCodeComesFromReset := fun _ => rfl

end Sys2Proof.Proofs
end

section
/-! The Bus Transport's contract and its requests as rows of their own (40_bus_transport.md R101 to R107). -/

namespace Sys2Proof.Proofs

open Sys2Proof.Machine Sys2Proof.Laws

/-! ## The beats owed (R101) -/

/-- Settles O49, by `owedWithinContract_step`. -/
theorem noSurplusBeatIsOwed : Obligations.NoSurplusBeatIsOwed := fun _ _ => owedWithinContract_step

/-! ## The requests (R102 to R107) -/

/-- A row that is one exchange due no beats. -/
theorem exec_exchange_plain {i : Instr} (w : TrWord) {s : State} {r : Reply} {rest : List Reply}
    (hi : exec i s = .next (exchange w (fun _ => done) s)) (hw : beatsDue w = 0) (hr : s.replies = r :: rest) :
    exec i s = .next { s with replies := rest, owed := [], trace := s.trace ++ [.exchange w r.rdata] } := by
  rw [exec_exchange w hi hr, hw, List.take_zero]

/-- A `READBYTES` is owed its count of beats. -/
theorem exec_readBytes (count : Byte) {s : State} {r : Reply} {rest : List Reply} (hr : s.replies = r :: rest) :
    exec (.readBytes count) s = .next { s with
      replies := rest, owed := r.beats.take count.toNat
      trace := s.trace ++ [.exchange (trWord .readBytes count) r.rdata] } := by
  rw [exec_exchange (trWord .readBytes count) rfl hr, beatsDue_trWord, if_pos rfl]

/-- Settles O29: each row is one exchange of its request word, and only `READBYTES` is due beats. -/
theorem requestsExchangeOneWord : Obligations.RequestsExchangeOneWord := by
  intro s r rest b hr
  refine ⟨?_, ?_, ?_, ?_, ?_, ?_, ?_⟩
  · exact exec_exchange_plain (trWord .reset 0#8) rfl (by simp) hr
  · exact exec_exchange_plain (trWord .skipRom 0#8) rfl (by simp) hr
  · exact exec_exchange_plain (trWord .writeByte b) rfl (by simp) hr
  · exact exec_exchange_plain (trWord .writeBit (bitArg false)) rfl (by simp) hr
  · exact exec_exchange_plain (trWord .writeBit (bitArg true)) rfl (by simp) hr
  · exact exec_readBytes b hr
  · exact exec_exchange_plain (trWord .delay b) rfl (by simp) hr

end Sys2Proof.Proofs
end

section
/-! WRITE_ID answered to its end (42_write_identifier.md R130 to R147), and its requests counted (40_bus_transport.md
R109, 70_reset_and_hazards.md R217): a micro-step that is one exchange is a leg of the routine's way, legs compose, and
the bit loop is an induction on the payload bits left. -/

namespace Sys2Proof.Proofs

open Sys2Proof.Machine Sys2Proof.Laws

/-! ## Legs of a routine that are exchanges only -/

/-- Where a routine stands: what its exchanges write of the registers. -/
structure Place where
  upc : MicroStep
  byte : BitVec 3
  bit : BitVec 3

/-- `s` standing at `p`. -/
def standing (p : Place) (s : State) : State := { s with upc := p.upc, byte := p.byte, bit := p.bit }

/-- `s` when the requests `ws` have been answered by `rs` and `rest` are the answers to come. -/
def answered (ws : List TrWord) (rs rest : List Reply) (s : State) : State :=
  { s with replies := rest, owed := [], trace := s.trace ++ exchanges ws (rs.map (·.rdata)) }

/-- With the payload `v` a routine goes from `p` to `q` by the requests `ws`, one a micro-step, whatever the answers. -/
def Leg (v : IdBuf) (p : Place) (ws : List TrWord) (q : Place) : Prop :=
  ∀ (s : State) (rs rest : List Reply) (n : Nat), s.idBuf = v → rs.length = ws.length → s.replies = rs ++ rest →
    runRoutine (ws.length + n) (standing p s) = runRoutine n (standing q (answered ws rs rest s))

theorem exchanges_append {ws : List TrWord} {rs : List TsWord} (h : rs.length = ws.length) (ws' : List TrWord)
    (rs' : List TsWord) : exchanges (ws ++ ws') (rs ++ rs') = exchanges ws rs ++ exchanges ws' rs' :=
  List.zipWith_append h.symm

theorem answered_append {ws : List TrWord} {rs : List Reply} (h : rs.length = ws.length) (ws' : List TrWord)
    (rs' rest rest' : List Reply) (s : State) :
    answered ws' rs' rest (answered ws rs rest' s) = answered (ws ++ ws') (rs ++ rs') rest s := by
  simp [answered, exchanges_append (rs := rs.map (·.rdata)) (by simpa using h)]

theorem Leg.trans {v : IdBuf} {p q q' : Place} {ws ws' : List TrWord} (h : Leg v p ws q) (h' : Leg v q ws' q') :
    Leg v p (ws ++ ws') q' := by
  intro s rs rest n hv hlen hr
  rw [List.length_append] at hlen
  obtain ⟨as, bs, rfl, has⟩ : ∃ as bs, rs = as ++ bs ∧ as.length = ws.length :=
    ⟨rs.take ws.length, rs.drop ws.length, (List.take_append_drop ..).symm, by simp; omega⟩
  have hbs : bs.length = ws'.length := by simp at hlen; omega
  rw [List.append_assoc] at hr
  rw [List.length_append, Nat.add_assoc, h s as (bs ++ rest) _ hv has hr, h' (answered ..) bs rest n hv hbs rfl,
    answered_append has]

/-- A micro-step that is one exchange due no beats. -/
theorem Leg.of_exchange {v : IdBuf} {p q : Place} {w : TrWord} {k : TsWord → State → State} (hp : p.upc ≠ .idle)
    (hw : beatsDue w = 0) (hk : ∀ r m, k r (standing p m) = standing q m)
    (h : ∀ s : State, s.idBuf = v → microStep (standing p s) = .next (exchange w k (standing p s))) :
    Leg v p [w] q := by
  intro s rs rest n hv hlen hr
  obtain ⟨r, rfl⟩ := List.length_eq_one_iff.1 hlen
  have hstep := h s hv
  rw [exchange_plain (s := standing p s) k hw hr] at hstep
  rw [List.length_singleton, Nat.add_comm, runRoutine_succ hp hstep]
  exact congrArg (runRoutine n) (hk r.rdata (answered [w] [r] rest s))

/-! ## The legs of WRITE_ID -/

theorem plainExchanges_due : ∀ p ∈ plainExchanges, p.1 ≠ .idle ∧ beatsDue p.2.1 = 0 := by
  decide

theorem exec_plainExchange : ∀ p ∈ plainExchanges, ∀ s : State,
    exec (instrAt p.1) s = .next (exchange p.2.1 (fun _ t => t.goto p.2.2) s) := by
  intro p hp s
  fin_cases hp <;> rfl

theorem leg_plainExchange {u u' : MicroStep} {w : TrWord} (hmem : (u, w, u') ∈ plainExchanges) (v : IdBuf)
    (byte bit : BitVec 3) : Leg v ⟨u, byte, bit⟩ [w] ⟨u', byte, bit⟩ := by
  obtain ⟨hidle, hdue⟩ := plainExchanges_due _ hmem
  exact .of_exchange hidle hdue (fun _ _ => rfl) fun _ _ =>
    (microStep_eq_exec rfl).trans (exec_plainExchange _ hmem _)

theorem Leg.cons {v : IdBuf} {u : MicroStep} {w : TrWord} {byte bit : BitVec 3} {ws : List TrWord} {q : Place}
    (u' : MicroStep) (hmem : (u, w, u') ∈ plainExchanges) (h : Leg v ⟨u', byte, bit⟩ ws q) :
    Leg v ⟨u, byte, bit⟩ (w :: ws) q :=
  Leg.trans (leg_plainExchange hmem v byte bit) h

/-- Where the bit loop asks for the delay of payload bit `n` (R139, R140). -/
def bitPlace (n : Nat) : Place := ⟨.wBdly, BitVec.ofNat 3 (n / 8), BitVec.ofNat 3 (n % 8)⟩

/-- Where the bit loop sends payload bit `n`. -/
def sendPlace (n : Nat) : Place := { bitPlace n with upc := .wBit }

/-- Where the bit loop ends. -/
def loopEnd : Place := ⟨.wRst3, 7#3, 7#3⟩

theorem leg_writeCommand (v : IdBuf) (byte bit : BitVec 3) : Leg v ⟨.wCmd, byte, bit⟩ [0x2D5#11] (bitPlace 0) :=
  .of_exchange nofun rfl (k := fun _ t => ((t.setByte 0#3).setBit 0#3).goto .wBdly) (fun _ _ => rfl)
    fun _ _ => microStep_eq_exec rfl

/-- The word sent for payload bit `n` is the marshaler's (R141, R147). -/
theorem bitRequest_sendPlace (n : Nat) (s : State) : bitRequest (standing (sendPlace n) s) = bitWord s.idBuf n := by
  have hbit : (BitVec.ofNat 3 (n % 8)).toNat = n % 8 := by simp
  simp only [bitRequest, bitWord, payloadBit, standing, sendPlace, bitPlace, hbit]
  cases (idGet s.idBuf (BitVec.ofNat 3 (n / 8))).getLsbD (n % 8) <;> rfl

theorem beatsDue_bitWord (v : IdBuf) (n : Nat) : beatsDue (bitWord v n) = 0 := by
  unfold bitWord
  split <;> rfl

/-- The loop control counts to the next payload bit (R140). -/
theorem nextBit_sendPlace {n : Nat} (h : n < 63) (s : State) :
    nextBit (standing (sendPlace n) s) = standing (bitPlace (n + 1)) s := by
  by_cases hn : n % 8 = 7
  · have hbyte : BitVec.ofNat 3 (n / 8) ≠ 7#3 := by bv_omega
    have hdiv : (n + 1) / 8 = n / 8 + 1 := by omega
    have hmod : (n + 1) % 8 = 0 := by omega
    simp [nextBit, standing, sendPlace, bitPlace, hn, hbyte, hdiv, hmod, State.setBit, State.setByte, State.goto,
      BitVec.ofNat_add]
  · have hbit : BitVec.ofNat 3 (n % 8) ≠ 7#3 := by bv_omega
    have hdiv : (n + 1) / 8 = n / 8 := by omega
    have hmod : (n + 1) % 8 = n % 8 + 1 := by omega
    simp [nextBit, standing, sendPlace, bitPlace, hbit, hdiv, hmod, State.setBit, State.goto, BitVec.ofNat_add]

theorem nextBit_sendPlace_last (s : State) : nextBit (standing (sendPlace 63) s) = standing loopEnd s := rfl

theorem leg_bit {v : IdBuf} {n : Nat} {q : Place} (hq : ∀ s, nextBit (standing (sendPlace n) s) = standing q s) :
    Leg v (bitPlace n) [0x519#11, bitWord v n] q := by
  refine .cons .wBit (by decide) ?_
  refine .of_exchange nofun (beatsDue_bitWord v n) (fun _ => hq) fun s hv => ?_
  rw [← hv, ← bitRequest_sendPlace]
  exact microStep_eq_exec rfl

/-- The bit loop from payload bit `n` on (R138, R140). -/
theorem leg_bits (v : IdBuf) (k n : Nat) (h : n + k = 63) :
    Leg v (bitPlace n) ((List.range' n (k + 1)).flatMap fun i => [0x519#11, bitWord v i]) loopEnd := by
  induction k generalizing n with
  | zero =>
    obtain rfl : n = 63 := h
    exact leg_bit nextBit_sendPlace_last
  | succ k ih =>
    rw [List.range'_succ, List.flatMap_cons]
    exact (leg_bit (nextBit_sendPlace (by omega))).trans (ih (n + 1) (by omega))

/-- The 137 requests of WRITE_ID (R147). -/
theorem leg_writeId (v : IdBuf) (byte bit : BitVec 3) :
    Leg v ⟨.wRst1, byte, bit⟩ (writeIdWords v) ⟨.wDone, 7#3, 7#3⟩ := by
  have hopen : Leg v ⟨.wRst1, byte, bit⟩ [0x000#11, 0x100#11, 0x514#11, 0x2D1#11, 0x000#11, 0x2D5#11]
      (bitPlace 0) :=
    .cons .wSkip (by decide) <| .cons .wSettle (by decide) <| .cons .wEnter (by decide) <|
    .cons .wRst2 (by decide) <| .cons .wCmd (by decide) <| leg_writeCommand v byte bit
  have hbits := leg_bits v 63 0 rfl
  have hclose : Leg v loopEnd [0x000#11, 0x2D1#11, 0x000#11] ⟨.wDone, 7#3, 7#3⟩ :=
    .cons .wExit (by decide) <| .cons .wRst4 (by decide) <| leg_plainExchange (by decide) v 7#3 7#3
  rw [← List.range_eq_range'] at hbits
  exact (hopen.trans hbits).trans hclose

@[simp] theorem length_writeIdWords (v : IdBuf) : (writeIdWords v).length = 137 := by
  simp [writeIdWords]

/-- One report of a routine that is not over. -/
theorem runRoutine_report {w : RpWord} {k : State → State} {s : State} {m n : Nat} (hu : s.upc ≠ .idle)
    (h : microStep s = .next (sendReport w k s)) (ha : s.acks = n + 1) :
    runRoutine (m + 1) s = runRoutine m (k { s with acks := n, trace := s.trace ++ [.report w] }) := by
  rw [sendReport_succ w k ha] at h
  exact runRoutine_succ hu h

/-- WRITE_ID answered to its end: all that it does (R130, R147). -/
theorem exec_writeId_answered {s : State} {rs rest : List Reply} {n : Nat} (hlen : rs.length = 137)
    (hr : s.replies = rs ++ rest) (ha : s.acks = n + 2) :
    exec .writeId s = .next { s with
      st := .idle, upc := .idle, byte := 7#3, bit := 7#3, res := .writeDone, replies := rest, owed := [], acks := n
      trace := s.trace ++ writeIdTrace s.idBuf (rs.map (·.rdata)) } := by
  refine (runRoutine_report (w := 2#66) (k := (·.goto .wRst1)) (s := (s.setSt .writing).goto .wProg) (m := 138)
    nofun (microStep_eq_exec rfl) ha).trans ?_
  refine (leg_writeId s.idBuf s.byte s.bit { s with st := .writing, acks := n + 1, trace := s.trace ++ [.report 2#66] }
    rs rest 1 rfl (by simp [hlen]) hr).trans ?_
  rw [runRoutine_report (w := 3#66) (k := complete .writeDone) (s := standing ⟨.wDone, 7#3, 7#3⟩ _)
    nofun (microStep_eq_exec rfl) rfl, runRoutine]
  simp [complete_eq, standing, answered, writeIdTrace, Completion.code]

/-! ## The messages counted (R109, R217) -/

theorem requestWords_append (es fs : List Event) : requestWords (es ++ fs) = requestWords es ++ requestWords fs := by
  induction es with
  | nil => rfl
  | cons e es ih => cases e <;> simp [requestWords, ih]

theorem beatCount_append (es fs : List Event) : beatCount (es ++ fs) = beatCount es + beatCount fs := by
  induction es with
  | nil => simp [beatCount]
  | cons e es ih =>
    cases e with
    | beat d => simp only [List.cons_append, beatCount, ih]; omega
    | _ => exact ih

theorem requestWords_exchanges {ws : List TrWord} {rs : List TsWord} (h : rs.length = ws.length) :
    requestWords (exchanges ws rs) = ws := by
  induction ws generalizing rs with
  | nil => rfl
  | cons w ws ih =>
    cases rs with
    | nil => simp at h
    | cons r rs => exact congrArg (w :: ·) (ih (by simpa using h))

theorem beatCount_exchanges (ws : List TrWord) (rs : List TsWord) : beatCount (exchanges ws rs) = 0 := by
  induction ws generalizing rs with
  | nil => rfl
  | cons w ws ih =>
    cases rs with
    | nil => rfl
    | cons r rs => exact ih rs

theorem requestWords_writeIdTrace (v : IdBuf) {rs : List TsWord} (h : rs.length = 137) :
    requestWords (writeIdTrace v rs) = writeIdWords v := by
  have hwords : requestWords (exchanges (writeIdWords v) rs) = writeIdWords v := requestWords_exchanges (by simp [h])
  simp [writeIdTrace, requestWords_append, hwords, requestWords]

theorem beatCount_writeIdTrace (v : IdBuf) (rs : List TsWord) : beatCount (writeIdTrace v rs) = 0 := by
  simp [writeIdTrace, beatCount_append, beatCount_exchanges, beatCount]

theorem trReq_bitWord (v : IdBuf) (n : Nat) : trReq (bitWord v n) = TrReq.writeBit.code := by
  unfold bitWord
  split <;> rfl

/-- How often each request is made: in the bit loop each payload bit is one `DELAY` and one `WRITEBIT`, whatever its
value. -/
theorem count_writeIdWords (v : IdBuf) (c : BitVec 3) :
    ((writeIdWords v).map trReq).count c =
      [0#3, 1#3, 5#3, 2#3, 0#3, 2#3].count c + 64 * [5#3, 3#3].count c + [0#3, 2#3, 0#3].count c := by
  have hloop : (((List.range 64).flatMap fun n => [0x519#11, bitWord v n]).map trReq).count c =
      64 * [5#3, 3#3].count c := by
    have hbit (n : Nat) : [0x519#11, bitWord v n].map trReq = [5#3, 3#3] := by
      rw [List.map_cons, List.map_singleton, trReq_bitWord]
      rfl
    simp only [List.map_flatMap, hbit, List.count_flatMap, Function.comp_def, List.map_const', List.sum_replicate,
      List.length_range, smul_eq_mul]
  rw [writeIdWords, List.map_append, List.map_append, List.count_append, List.count_append, hloop]
  rfl

/-- The delays: one to settle, and one before each payload bit (R134, R139). -/
theorem delays_writeIdWords (v : IdBuf) :
    (writeIdWords v).filter (fun w => trReq w == TrReq.delay.code) = 0x514#11 :: List.replicate 64 0x519#11 := by
  have hbit (n : Nat) : [0x519#11, bitWord v n].filter (fun w => trReq w == TrReq.delay.code) = [0x519#11] := by
    simp only [List.filter_cons, List.filter_nil, trReq_bitWord]
    rfl
  rw [writeIdWords, List.filter_append, List.filter_append, List.filter_flatMap]
  simp only [hbit]
  rfl

/-- Settles O40: the messages by `exec_writeId_answered`; their requests are `writeIdWords`, counted by kind. -/
theorem writeRequestCounts : Obligations.WriteRequestCounts := by
  intro s rs rest n hlen hr ha
  refine ⟨_, _, exec_writeId_answered hlen hr ha, rfl, ?_⟩
  rw [requestWords_writeIdTrace s.idBuf (by simpa using hlen), delays_writeIdWords]
  simp only [count_writeIdWords]
  exact ⟨length_writeIdWords _, beatCount_writeIdTrace .., rfl, rfl, rfl, rfl, rfl, rfl, by decide⟩

end Sys2Proof.Proofs
end

section
/-! The micro-steps of READ_ID and the plain exchanges (41_read_identifier.md R121 to R124; 42_write_identifier.md R132
to R145), each answered. -/

namespace Sys2Proof.Proofs

open Sys2Proof.Machine Sys2Proof.Laws

/-- A micro-step that is a plain exchange, answered: the response is dropped and no beat is owed. -/
theorem exec_plainExchange_answered {u u' : MicroStep} {w : TrWord} (hmem : (u, w, u') ∈ plainExchanges) {s : State}
    {r : Reply} {rest : List Reply} (hr : s.replies = r :: rest) :
    exec (instrAt u) s = .next { s with
      upc := u', replies := rest, owed := [], trace := s.trace ++ [.exchange w r.rdata] } := by
  obtain ⟨-, hdue⟩ := plainExchanges_due _ hmem
  rw [exec_plainExchange _ hmem s, exchange_plain _ hdue hr, State.goto]

/-- Settles O20: each of the ten is a row of `plainExchanges`. -/
theorem exchangeMicroSteps : Obligations.ExchangeMicroSteps := by
  intro s r rest hr
  have h {u u' : MicroStep} {w : TrWord} (hmem : (u, w, u') ∈ plainExchanges) :=
    exec_plainExchange_answered hmem hr
  exact ⟨h (u := .rCmd) (by decide), h (u := .wRst1) (by decide), h (u := .wSkip) (by decide),
    h (u := .wSettle) (by decide), h (u := .wEnter) (by decide), h (u := .wRst2) (by decide),
    h (u := .wBdly) (by decide), h (u := .wRst3) (by decide), h (u := .wExit) (by decide),
    h (u := .wRst4) (by decide)⟩

/-- Settles O21: the request is `READBYTES(8)`, which is due eight beats. -/
theorem readRequested : Obligations.ReadRequested := by
  intro s r rest hr
  exact congrArg Host.Outcome.next (exchange_cons 0x408#11 (fun _ t => (t.setByte 0#3).goto .rData) hr)

theorem exec_uRData_beat {s : State} {d : Byte} {rest : List Byte} (ho : s.owed = d :: rest) (hb : s.byte ≠ 7#3) :
    exec .uRData s = .next { s with
      idBuf := idSet s.idBuf s.byte d, byte := s.byte + 1#3, owed := rest, trace := s.trace ++ [.beat d] } := by
  rw [exec, execURData, takeBeat_cons storeBeat ho, storeBeat, if_neg hb]
  rfl

theorem exec_uRData_lastBeat {s : State} {d : Byte} {rest : List Byte} (ho : s.owed = d :: rest) (hb : s.byte = 7#3) :
    exec .uRData s = .next { s with
      idBuf := idSet s.idBuf s.byte d, upc := .rRpt, owed := rest, trace := s.trace ++ [.beat d] } := by
  rw [exec, execURData, takeBeat_cons storeBeat ho, storeBeat, if_pos hb]
  rfl

/-- Settles O22: the micro-step by the value of `BYTE`, the buffer by the laws of read after write. -/
theorem beatStored : Obligations.BeatStored :=
  fun _ d _ ho =>
    ⟨exec_uRData_lastBeat ho, exec_uRData_beat ho, idGet_idSet_same .., fun _ => idGet_idSet_other _ d⟩

/-- Settles O23: the report of the packed identifier, then `complete_eq`. -/
theorem identifierReported : Obligations.IdentifierReported := by
  intro s n ha
  rw [exec, execURRpt, sendReport_succ _ _ ha, complete_eq]
  simp [identifierReport, rpWord, Report.code, Completion.code]

end Sys2Proof.Proofs
end

section
/-! READ_ID answered to its end (41_read_identifier.md R120, R125 to R127): the eight beats are an induction on the
beats still to come. -/

namespace Sys2Proof.Proofs

open Sys2Proof.Machine Sys2Proof.Laws

/-! ## The beats -/

/-- The buffer when the first `n` beats `ds` are stored over `v`. -/
def beatsStored (v ds : IdBuf) (n : Nat) : IdBuf := Vector.ofFn fun i => if i.val < n then ds[i] else v[i]

theorem beatsStored_zero (v ds : IdBuf) : beatsStored v ds 0 = v := by
  ext i hi
  simp [beatsStored]

theorem beatsStored_eight (v ds : IdBuf) : beatsStored v ds 8 = ds := by
  ext i hi
  simp [beatsStored]

/-- Beat `n` goes to `ID[n]` (R123, R125). -/
theorem idSet_beatsStored (v ds : IdBuf) {n : Nat} (hn : n < 8) :
    idSet (beatsStored v ds n) (BitVec.ofNat 3 n) ds[n] = beatsStored v ds (n + 1) := by
  have hindex : (BitVec.ofNat 3 n).toNat = n := Nat.mod_eq_of_lt hn
  ext i hi
  simp only [idSet, beatsStored, hindex, Vector.getElem_set, Vector.getElem_ofFn, Fin.getElem_fin]
  by_cases h : n = i
  · subst h; simp
  · have hlt : i < n + 1 ↔ i < n := by omega
    simp [h, hlt]

/-- `s` waiting at `U_R_DATA` for beat `n` of `ds`. -/
def awaitingBeat (ds : IdBuf) (n : Nat) (s : State) : State :=
  { s with
    upc := .rData, byte := BitVec.ofNat 3 n, owed := ds.toList.drop n, idBuf := beatsStored s.idBuf ds n
    trace := s.trace ++ (ds.toList.map .beat).take n }

/-- `s` at `U_R_RPT` with every beat of `ds` taken. -/
def beatsTaken (ds : IdBuf) (s : State) : State :=
  { s with upc := .rRpt, byte := 7#3, owed := [], idBuf := ds, trace := s.trace ++ ds.toList.map .beat }

theorem awaitingBeat_owed (ds : IdBuf) {n : Nat} (hn : n < 8) (s : State) :
    (awaitingBeat ds n s).owed = ds[n] :: ds.toList.drop (n + 1) :=
  List.drop_eq_getElem_cons (by simpa using hn)

theorem beats_take_succ (ds : IdBuf) {n : Nat} (hn : n < 8) :
    (ds.toList.map Event.beat).take (n + 1) = (ds.toList.map Event.beat).take n ++ [.beat ds[n]] := by
  rw [List.take_succ_eq_append_getElem (by simpa using hn)]
  simp

theorem microStep_awaitingBeat (ds : IdBuf) {n : Nat} (hn : n < 7) (s : State) :
    microStep (awaitingBeat ds n s) = .next (awaitingBeat ds (n + 1) s) := by
  have hn8 : n < 8 := by omega
  have hbyte : BitVec.ofNat 3 n ≠ 7#3 := by bv_omega
  refine (microStep_eq_exec rfl).trans ((exec_uRData_beat (awaitingBeat_owed ds hn8 s) hbyte).trans ?_)
  simp [awaitingBeat, idSet_beatsStored, beats_take_succ, hn8, BitVec.ofNat_add]

theorem microStep_awaitingBeat_last (ds : IdBuf) (s : State) :
    microStep (awaitingBeat ds 7 s) = .next (beatsTaken ds s) := by
  have hid : idSet (beatsStored s.idBuf ds 7) 7#3 ds[7] = ds :=
    (idSet_beatsStored s.idBuf ds (by omega)).trans (beatsStored_eight ..)
  have htrace : (ds.toList.map Event.beat).take 7 ++ [.beat ds[7]] = ds.toList.map .beat :=
    (beats_take_succ ds (by omega)).symm.trans (List.take_of_length_le (by simp))
  refine (microStep_eq_exec rfl).trans ((exec_uRData_lastBeat (awaitingBeat_owed ds (by omega) s) rfl).trans ?_)
  simp [awaitingBeat, beatsTaken, hid, htrace]

/-- The beats from the `n`-th on (R123). -/
theorem runRoutine_beats (ds : IdBuf) (s : State) (m k n : Nat) (h : n + k = 7) :
    runRoutine (m + k + 1) (awaitingBeat ds n s) = runRoutine m (beatsTaken ds s) := by
  induction k generalizing n with
  | zero =>
    obtain rfl : n = 7 := h
    exact runRoutine_succ (by simp [awaitingBeat]) (microStep_awaitingBeat_last ds s)
  | succ k ih =>
    rw [runRoutine_succ (by simp [awaitingBeat]) (microStep_awaitingBeat ds (by omega) s)]
    exact ih (n + 1) (by omega)

/-! ## The whole routine -/

/-- The eight bytes asked for: the first eight of the reply are owed, and the surplus is not (R122, D20). -/
theorem exec_uRReq_awaitingBeat {s : State} {r : Reply} {rest : List Reply} {ds : IdBuf} {surplus : List Byte}
    (hr : s.replies = r :: rest) (hbeats : r.beats = ds.toList ++ surplus) :
    exec .uRReq s = .next (awaitingBeat ds 0 { s with
      replies := rest, trace := s.trace ++ [.exchange 0x408#11 r.rdata] }) := by
  have howed : r.beats.take 8 = ds.toList := by rw [hbeats, List.take_left' (by simp)]
  rw [readRequested s r rest hr, howed]
  simp [awaitingBeat, beatsStored_zero]

/-- One micro-step of a routine, by what the row at `UPC` does. -/
theorem runRoutine_row {u : MicroStep} (hu : u ≠ .idle) {n : Nat} {s t : State} (hs : s.upc = u)
    (h : exec (instrAt u) s = .next t) : runRoutine (n + 1) s = runRoutine n t :=
  runRoutine_succ (hs ▸ hu) ((microStep_eq_exec hs).trans h)

/-- READ_ID answered to its end: all that it does (R120, R125 to R127). -/
theorem exec_readId_answered {s : State} {r0 r1 : Reply} {ds : IdBuf} {surplus : List Byte} {rest : List Reply}
    {n : Nat} (hr : s.replies = r0 :: r1 :: rest) (hbeats : r1.beats = ds.toList ++ surplus) (ha : s.acks = n + 1) :
    exec .readId s = .next { s with
      idBuf := ds, st := .idle, upc := .idle, byte := 7#3, res := .readDone, replies := rest, owed := [], acks := n
      trace := s.trace ++ readIdTrace r0.rdata r1.rdata ds } := by
  obtain ⟨hcmd, -⟩ := exchangeMicroSteps ((s.setSt .reading).goto .rCmd) r0 (r1 :: rest) hr
  refine (runRoutine_row (u := .rCmd) nofun rfl hcmd).trans ?_
  refine (runRoutine_row (u := .rReq) nofun rfl (exec_uRReq_awaitingBeat rfl hbeats)).trans ?_
  refine (runRoutine_beats ds _ 1 7 0 rfl).trans ?_
  refine Eq.trans (runRoutine_row (u := .rRpt) nofun rfl (identifierReported _ n ha)) ?_
  simp [runRoutine, beatsTaken, readIdTrace, rpWord, Report.code, State.setSt, State.goto]

/-- Settles O37, by `exec_readId_answered`. -/
theorem readIdentifierWhole : Obligations.ReadIdentifierWhole :=
  fun _ _ _ _ _ _ _ => exec_readId_answered

end Sys2Proof.Proofs
end

section
/-! The routines as steps of the machine (41_read_identifier.md R120; 42_write_identifier.md R130;
43_dispatch_and_host.md R162), and so a Read from the `POLL` on. -/

namespace Sys2Proof.Proofs

open Sys2Proof.Machine Sys2Proof.Laws

/-! ## A routine is not over before its last micro-step -/

/-- How many micro-steps the routine in hand still takes, when every message is answered (R120, R130). -/
def stepsLeft (s : State) : Nat :=
  match s.upc with
  | .idle | .pRst | .pNodev => 0
  | .rCmd => 11
  | .rReq => 10
  | .rData => 9 - s.byte.toNat
  | .rRpt => 1
  | .wProg => 139
  | .wRst1 => 138
  | .wSkip => 137
  | .wSettle => 136
  | .wEnter => 135
  | .wRst2 => 134
  | .wCmd => 133
  | .wBdly => 132 - 2 * (8 * s.byte.toNat + s.bit.toNat)
  | .wBit => 131 - 2 * (8 * s.byte.toNat + s.bit.toNat)
  | .wRst3 => 4
  | .wExit => 3
  | .wRst4 => 2
  | .wDone => 1

theorem upc_ne_idle_of_stepsLeft {s : State} (h : stepsLeft s ≠ 0) : s.upc ≠ .idle := by
  intro hu
  simp [stepsLeft, hu] at h

/-- A plain exchange is one micro-step of its routine, wherever the counters stand. -/
theorem plainExchanges_stepsLeft : ∀ p ∈ plainExchanges, ∀ s : State, s.upc = p.1 →
    stepsLeft s = stepsLeft { s with upc := p.2.2 } + 1 := by
  intro p hp s hu
  simp only [stepsLeft, hu]
  -- each row by its numbers; only at the bit loop's delay do they depend on the counters
  fin_cases hp <;> dsimp only <;> omega

/-- The loop counters do not wrap (R123, R140). -/
theorem toNat_add_one {k : BitVec 3} (h : k ≠ 7#3) : (k + 1#3).toNat = k.toNat + 1 := by
  bv_omega

/-- A micro-step brings the end of the routine nearer by one at most. -/
theorem stepTo_stepsLeft {s t : State} (h : StepTo s t) : stepsLeft s ≤ stepsLeft t + 1 := by
  cases h with
  | wait => exact Nat.le_succ _
  | load _ _ hu | cancel _ _ hu | poll _ _ hu | noDevice _ _ hu | dispatchRead _ _ hu | dispatchWrite _ _ hu
  | readRequest _ _ hu | writeCommand _ _ hu | reportNoDevice _ hu | reportIdentifier _ hu | reportProgress _ hu
  | reportComplete _ hu => simp [stepsLeft, hu]
  | plainExchange _ _ _ _ _ hmem hu => exact (plainExchanges_stepsLeft _ hmem s hu).le
  | beat _ _ hu _ hb =>
    simp only [stepsLeft, hu, toNat_add_one hb]
    omega
  | lastBeat _ _ hu _ hb => simp [stepsLeft, hu, hb]
  | bit _ _ hu _ hb =>
    simp only [stepsLeft, hu, toNat_add_one hb]
    omega
  | lastBitOfByte _ _ hu _ hb hy =>
    simp only [stepsLeft, hu, toNat_add_one hy, hb, BitVec.toNat_ofNat]
    omega
  | lastBit _ _ hu _ hb hy => simp [stepsLeft, hu, hb, hy]

/-! ## The machine runs the routine -/

/-- A micro-step always has a next state (R180). -/
theorem exists_microStep (s : State) : ∃ t, microStep s = .next t := by
  cases hu : s.upc with
  | idle =>
    cases hc : s.cmds with
    | nil => exact ⟨s, by simp [microStep, hu, execUIdle, hc]⟩
    | cons w rest => exact ⟨takeCommand w (commandTaken w) s, by simp [microStep, hu, execUIdle, hc]⟩
  | _ => exact ⟨_, microStep_eq_exec hu⟩

/-- With `rst` released for good a step is a micro-step. -/
theorem step_eq_microStep {s : State} (h : s.rst = []) : step s = microStep s := by
  rw [step_of_rst_nil h, exec_fetch]

/-- A micro-step leaves the levels of `rst` as they are. -/
theorem stepTo_rst {s t : State} (h : StepTo s t) : t.rst = s.rst :=
  (stepTo_channelFrame (i := .readId) (fun _ => rfl) h).rst

/-- As many steps as the routine in hand still takes are the routine, answered or not. -/
theorem run_eq_runRoutine {n : Nat} {s : State} (hrst : s.rst = []) (hn : n ≤ stepsLeft s) :
    Sys2Proof.core.run n s = runRoutine n s := by
  induction n generalizing s with
  | zero => rfl
  | succ n ih =>
    obtain ⟨t, hm⟩ := exists_microStep s
    have hto := stepTo_of_microStep hm
    have hbusy : s.upc ≠ .idle := upc_ne_idle_of_stepsLeft (by omega)
    have hleft := stepTo_stepsLeft hto
    rw [core_run_succ ((step_eq_microStep hrst).trans hm), runRoutine_succ hbusy hm]
    exact ih ((stepTo_rst hto).trans hrst) (by omega)

/-- From its entry READ_ID is 11 steps (R120). -/
theorem run_readId {s : State} (hrst : s.rst = []) (hu : s.upc = .rCmd) (hst : s.st = .reading) :
    Sys2Proof.core.run 11 s = exec .readId s := by
  have hentry : (s.setSt .reading).goto .rCmd = s := by rw [State.setSt, State.goto, ← hu, ← hst]
  rw [run_eq_runRoutine hrst (by simp [stepsLeft, hu]), exec, execReadId, hentry]

/-- From its entry WRITE_ID is 139 steps (R130). -/
theorem run_writeId {s : State} (hrst : s.rst = []) (hu : s.upc = .wProg) (hst : s.st = .writing) :
    Sys2Proof.core.run 139 s = exec .writeId s := by
  have hentry : (s.setSt .writing).goto .wProg = s := by rw [State.setSt, State.goto, ← hu, ← hst]
  rw [run_eq_runRoutine hrst (by simp [stepsLeft, hu]), exec, execWriteId, hentry]

/-- Settles O39: until a routine is over the machine's steps are its micro-steps (`run_eq_runRoutine`), and at the
entries 11 and 139 of them are left. -/
theorem routinesAreTheMachinesSteps : Obligations.RoutinesAreTheMachinesSteps :=
  fun _ hrst => ⟨run_readId hrst, run_writeId hrst⟩

/-! ## From the `POLL` on -/

/-- A `POLL` that is not cancelled is taken in one step (R152). -/
theorem step_poll {s : State} {w : HcWord} {cs : List HcWord} (hu : s.upc = .idle) (hrst : s.rst = [])
    (hc : s.cmds = w :: cs) (hop : hcOp w = false) (hcancel : hcCancel w = false) :
    step s = .next { s with sel := hcSelect w, upc := .pRst, cmds := cs, trace := s.trace ++ [.command w] } := by
  rw [step_eq_microStep hrst, microStep_eq_exec hu]
  simp [instrAt, exec, execUIdle, hc, takeCommand_ready _ _ hu, commandTaken, hop, hcancel, pollTaken, State.setSel,
    State.goto]

/-- The presence check that starts a Read (R153). -/
theorem step_presenceCheck_read {s : State} {p : Reply} {rest : List Reply} (hu : s.upc = .pRst) (hrst : s.rst = [])
    (hr : s.replies = p :: rest) (hp : presence p.rdata = true) (hsel : s.sel = false) :
    step s = .next { s with
      st := .reading, upc := .rCmd, replies := rest, owed := []
      trace := s.trace ++ [.exchange 0x000#11 p.rdata] } := by
  rw [step_eq_microStep hrst, microStep_eq_exec hu, instrAt, exec, execUPRst, exchange_plain _ rfl hr, dispatchPoll,
    if_pos hp, if_neg (by simp [hsel])]
  rfl

/-- Settles O42: the `POLL`, the presence check, then by `run_readId` the routine, which `exec_readId_answered`
takes to its end. -/
theorem pollReadWhole : Obligations.PollReadWhole := by
  intro s w cs p r0 r1 ds surplus rest n hu hrst hc hop hcancel hsel hr hbeats hp ha
  have hpoll := step_poll hu hrst hc hop hcancel
  rw [show hcSelect w = false from hsel] at hpoll
  refine Eq.trans (core_run_succ hpoll) ?_
  refine Eq.trans (core_run_succ (step_presenceCheck_read rfl hrst hr hp rfl)) ?_
  refine Eq.trans (run_readId hrst rfl rfl) ?_
  refine Eq.trans (exec_readId_answered rfl hbeats ha) ?_
  rw [List.append_assoc s.trace]
  rfl

end Sys2Proof.Proofs
end

section
/-! The micro-steps of WRITE_ID that are no plain exchange (42_write_identifier.md R131, R137, R140 to R142, R146,
R148), the answers that are dropped in a Write (R138), and a Write from its row and from the `POLL` on (R147;
43_dispatch_and_host.md R156, R162). -/

namespace Sys2Proof.Proofs

open Sys2Proof.Machine Sys2Proof.Laws

/-! ## The marshaler (R141, R142, R148) -/

/-- The request word the marshaler makes of a payload bit: 0 is sent as 1, and 1 as 0 (R141). -/
theorem trWord_payloadBit (v : IdBuf) (k j : BitVec 3) :
    trWord .writeBit (bitArg (payloadBit v k j)) = if (idGet v k).getLsbD j.toNat then 0x300#11 else 0x301#11 := by
  rw [payloadBit]
  cases (idGet v k).getLsbD j.toNat <;> rfl

/-- Payload bit `8k + j` is bit `j` of byte `k` (R147). -/
theorem bitWord_index (v : IdBuf) (k j : BitVec 3) :
    bitWord v (8 * k.toNat + j.toNat) = if (idGet v k).getLsbD j.toNat then 0x300#11 else 0x301#11 := by
  have hj : j.toNat < 8 := idIndex_lt j
  have hbyte : (8 * k.toNat + j.toNat) / 8 = k.toNat := by omega
  have hbit : (8 * k.toNat + j.toNat) % 8 = j.toNat := by omega
  rw [bitWord, hbyte, hbit, BitVec.ofNat_toNat, BitVec.setWidth_eq]

/-- The marshaler's complement is a subtraction from `0xFF` (R142). -/
theorem payloadBit_eq_sub (v : IdBuf) (k j : BitVec 3) :
    payloadBit v k j = (0xFF#8 - idGet v k).getLsbD j.toNat := by
  have hj : j.toNat < 8 := idIndex_lt j
  rw [payloadBit, show 0xFF#8 = BitVec.allOnes 8 from rfl, BitVec.allOnes_sub_eq_not, BitVec.getLsbD_not]
  simp [hj]

/-- Settles O28: the complement is `payloadBit_eq_sub`; the words of one byte are `bitWord_index`, at bits that are
all zero or all one when the byte is `0x00` or `0xFF`. -/
theorem marshalerSendsTheComplement : Obligations.MarshalerSendsTheComplement := by
  intro p k
  refine ⟨payloadBit_eq_sub p k, fun j => ?_, fun hzero j => ?_, fun hones j => ?_⟩
  · rw [bitWord_index, trWord_payloadBit]
  · rw [bitWord_index, hzero, BitVec.getLsbD_zero, if_neg Bool.false_ne_true]
  · rw [bitWord_index, hones, show 0xFF#8 = BitVec.allOnes 8 from rfl, BitVec.getLsbD_allOnes,
      if_pos (decide_eq_true (idIndex_lt j))]

/-! ## The micro-steps (R131, R137, R140, R146) -/

/-- Settles O24: the report with zero data, and on to the next micro-step. -/
theorem writeProgressReported : Obligations.WriteProgressReported :=
  fun _ _ ha => congrArg Host.Outcome.next (sendReport_succ 2#66 (·.goto .wRst1) ha)

/-- Settles O25: the exchange of `0xD5`, then both counters are cleared. -/
theorem writeCommandSent : Obligations.WriteCommandSent :=
  fun _ _ _ hr => congrArg Host.Outcome.next
    (exchange_plain (w := 0x2D5#11) (fun _ t => ((t.setByte 0#3).setBit 0#3).goto .wBdly) rfl hr)

-- The three branches of the loop control (R140), each as a record update.

theorem nextBit_of_bit {s : State} (hbit : s.bit ≠ 7#3) :
    nextBit s = { s with bit := s.bit + 1#3, upc := .wBdly } :=
  if_pos hbit

theorem nextBit_of_byte {s : State} (hbit : s.bit = 7#3) (hbyte : s.byte ≠ 7#3) :
    nextBit s = { s with byte := s.byte + 1#3, bit := 0#3, upc := .wBdly } :=
  (if_neg (not_not_intro hbit)).trans (if_pos hbyte)

theorem nextBit_of_last {s : State} (hbit : s.bit = 7#3) (hbyte : s.byte = 7#3) :
    nextBit s = { s with upc := .wRst3 } :=
  (if_neg (not_not_intro hbit)).trans (if_neg (not_not_intro hbyte))

/-- `U_W_BIT` answered: the marshaler's request, then the loop control. -/
theorem exec_uWBit_answered {s : State} {r : Reply} {rest : List Reply} (hr : s.replies = r :: rest) :
    exec .uWBit s = .next (nextBit { s with
      replies := rest, owed := [], trace := s.trace ++ [.exchange (bitRequest s) r.rdata] }) :=
  congrArg Host.Outcome.next (exchange_plain (fun _ => nextBit) (beatsDue_bitRequest s) hr)

/-- Settles O26: the word by `trWord_payloadBit`, the counters by the three branches of the loop control. -/
theorem payloadBitSent : Obligations.PayloadBitSent := by
  intro s r rest w hr hw
  obtain rfl : bitRequest s = w := (trWord_payloadBit ..).trans hw.symm
  rw [exec_uWBit_answered hr]
  refine ⟨fun hbit => congrArg _ ?_, fun hbit hbyte => congrArg _ ?_, fun hbit hbyte => congrArg _ ?_⟩
  · exact nextBit_of_bit (BitVec.ne_of_lt hbit)
  · exact nextBit_of_byte hbit (BitVec.ne_of_lt hbyte)
  · exact nextBit_of_last hbit hbyte

/-- Settles O27: the report with zero data, then `complete_eq`. -/
theorem writeCompleted : Obligations.WriteCompleted := by
  intro s n ha
  rw [exec, execUWDone, sendReport_succ _ _ ha, complete_eq]
  simp [rpWord, Report.code, Completion.code]

/-! ## The answers in a Write are dropped (R138) -/

/-- The continuation `k` neither reads nor writes the trace. -/
def TraceBlind (k : State → State) : Prop :=
  ∀ (m : State) (es : List Event), k { m with trace := es } = { k m with trace := es }

theorem traceBlind_nextBit : TraceBlind nextBit := by
  intro m es
  rcases nextBit_cases m with ⟨hbit, h⟩ | ⟨hbit, hbyte, h⟩ | ⟨hbit, hbyte, h⟩ <;> rw [h]
  · exact nextBit_of_bit hbit
  · exact nextBit_of_byte hbit hbyte
  · exact nextBit_of_last hbit hbyte

/-- A request of WRITE_ID is due no beats, and the micro-step that makes it goes on with no regard to the answer,
whatever answers are offered. -/
theorem microStep_of_writeRequest {s : State} {w : TrWord} (hp : protoAt s.upc = .writing)
    (hw : treqWord s = some w) :
    beatsDue w = 0 ∧ ∃ k, (∀ answers : List Reply,
      microStep { s with replies := answers } = .next (exchange w (fun _ => k) { s with replies := answers })) ∧
      TraceBlind k := by
  cases hu : s.upc with
  | idle | pRst | pNodev | rCmd | rReq | rData | rRpt => simp [protoAt, hu] at hp
  | wProg | wDone => simp [treqWord, hu] at hw
  | wBit =>
    obtain rfl : bitRequest s = w := by simpa [treqWord, hu, bitRequest] using hw
    exact ⟨beatsDue_bitRequest s, nextBit, fun _ => microStep_eq_exec rfl, traceBlind_nextBit⟩
  | wRst1 | wSkip | wSettle | wEnter | wRst2 | wCmd | wBdly | wRst3 | wExit | wRst4 =>
    simp only [treqWord, hu, Option.some.injEq] at hw
    subst hw
    exact ⟨rfl, _, fun _ => microStep_eq_exec rfl, fun _ _ => rfl⟩

/-- Settles O58: by `microStep_of_writeRequest` the continuation sees the answer nowhere but in the trace, at which it
does not look. -/
theorem answersInAWriteAreDropped : Obligations.AnswersInAWriteAreDropped := by
  intro s w r r' rest hp hw hrst hr
  obtain ⟨hdue, k, hstep, hblind⟩ := microStep_of_writeRequest (s := s.tick) hp hw
  have hanswered (a : Reply) : step { s with replies := a :: rest } =
      .next { k { s.tick with replies := rest, owed := [] } with trace := s.trace ++ [.exchange w a.rdata] } := by
    rw [← hblind]
    refine (step_released (s := { s with replies := a :: rest }) hrst).trans ((hstep (a :: rest)).trans ?_)
    exact congrArg Host.Outcome.next (exchange_plain _ hdue rfl)
  have hs : s = { s with replies := r :: rest } := by rw [← hr]
  exact ⟨_, (congrArg step hs).trans (hanswered r), rfl, hanswered r'⟩

/-! ## A Write as a whole (R147, R156, R162) -/

/-- Settles O38, by `exec_writeId_answered`. -/
theorem writeIdentifierWhole : Obligations.WriteIdentifierWhole :=
  fun _ _ _ _ => exec_writeId_answered

/-- The presence check that starts a Write (R153). -/
theorem step_presenceCheck_write {s : State} {p : Reply} {rest : List Reply} (hu : s.upc = .pRst) (hrst : s.rst = [])
    (hr : s.replies = p :: rest) (hp : presence p.rdata = true) (hsel : s.sel = true) :
    step s = .next { s with
      st := .writing, upc := .wProg, replies := rest, owed := []
      trace := s.trace ++ [.exchange 0x000#11 p.rdata] } := by
  rw [step_eq_microStep hrst, microStep_eq_exec hu, instrAt, exec, execUPRst, exchange_plain _ rfl hr, dispatchPoll,
    if_pos hp, if_pos hsel]
  rfl

/-- Settles O43: the `POLL`, the presence check, then by `run_writeId` the routine, which `exec_writeId_answered`
takes to its end. -/
theorem pollWriteWhole : Obligations.PollWriteWhole := by
  intro s w cs p rs rest n hu hrst hc hop hcancel hsel hr hp hlen ha
  have hpoll := step_poll hu hrst hc hop hcancel
  rw [show hcSelect w = true from hsel] at hpoll
  refine Eq.trans (core_run_succ hpoll) ?_
  refine Eq.trans (core_run_succ (step_presenceCheck_write rfl hrst hr hp rfl)) ?_
  refine Eq.trans (run_writeId hrst rfl rfl) ?_
  refine Eq.trans (exec_writeId_answered hlen rfl ha) ?_
  rw [List.append_assoc s.trace]
  rfl

end Sys2Proof.Proofs
end

section
/-! The dispatch and the host commands (43_dispatch_and_host.md R151 to R160): a command as it is taken and as a busy
engine leaves it, the micro-steps 1 and 2, a `POLL` that finds no device, and the one completion of a command. -/

namespace Sys2Proof.Proofs

open Sys2Proof.Machine Sys2Proof.Laws

/-! ## A command as taken (R152, R154, R158) -/

-- What is done with a command taken, each branch as a record update.

theorem loadTaken_eq (v : BitVec 64) (s : State) :
    loadTaken v s = { s with
      idBuf := idOfValue v, res := .loaded, st := .idle, upc := .idle, trace := s.trace ++ [.completion 5#3] } := rfl

theorem pollTaken_cancel (select : Bool) (s : State) :
    pollTaken select true s = { s with
      res := .userCancel, st := .idle, upc := .idle, trace := s.trace ++ [.completion 4#3] } := rfl

theorem pollTaken_select (select : Bool) (s : State) :
    pollTaken select false s = { s with sel := select, upc := .pRst } := rfl

/-- A row that is the taking of a host command: at `U_IDLE` the word leaves the command channel (R151). -/
theorem exec_command {i : Instr} {w : HcWord} {k : State → State} {s : State}
    (hi : exec i s = .next (takeCommand w k s)) (hu : s.upc = .idle) :
    exec i s = .next (k { s with cmds := s.cmds.tail, trace := s.trace ++ [.command w] }) := by
  rw [hi, takeCommand_ready w k hu]

/-- Settles O12: the command is taken, then `pollTaken_cancel` or `pollTaken_select`. -/
theorem pollTaken : Obligations.PollTaken := by
  intro s payload hu
  refine ⟨fun select => ?_, ?_, ?_⟩
  · rw [exec_command rfl hu, pollTaken_cancel]
    simp
  · rw [exec_command rfl hu, pollTaken_select]
  · rw [exec_command rfl hu, pollTaken_select]

/-- Settles O13: the command is taken, then `loadTaken_eq`; the bytes are `idGet_idOfValue`. -/
theorem loadTaken : Obligations.LoadTaken := by
  intro s select cancel payload hu
  refine ⟨?_, idGet_idOfValue payload⟩
  rw [exec_command rfl hu, loadTaken_eq]
  simp

/-- `U_IDLE` takes the word on the command channel. -/
theorem exec_uIdle_offered {s : State} {w : HcWord} {rest : List HcWord} (hc : s.cmds = w :: rest) :
    exec .uIdle s = .next (takeCommand w (commandTaken w) s) := by
  rw [exec, execUIdle, hc]

theorem exec_uIdle_command {s : State} {w : HcWord} {rest : List HcWord} (hu : s.upc = .idle)
    (hc : s.cmds = w :: rest) :
    exec .uIdle s = .next (commandTaken w { s with cmds := rest, trace := s.trace ++ [.command w] }) := by
  rw [exec_command (exec_uIdle_offered hc) hu, hc, List.tail_cons]

theorem commandTaken_load {w : HcWord} (ho : hcOp w = true) (s : State) :
    commandTaken w s = Machine.loadTaken (hcPayload w) s := if_pos ho

theorem commandTaken_poll {w : HcWord} (ho : hcOp w = false) (s : State) :
    commandTaken w s = Machine.pollTaken (hcSelect w) (hcCancel w) s := if_neg (by simp [ho])

/-- Settles O15: the micro-step at `U_IDLE` is the fetched instruction, which is the word decoded; bit 0 selects the
command, and bit 2 of a `POLL` whether it is cancelled. -/
theorem idleTakesTheOfferedCommand : Obligations.IdleTakesTheOfferedCommand := by
  intro s w rest hu hc
  refine ⟨?_, fun hop => ?_, fun hop hcancel => ?_, fun hop hcancel => ?_⟩
  · calc exec .uIdle s = microStep s := (microStep_eq_exec hu).symm
      _ = exec (fetch s) s := (exec_fetch s).symm
      _ = exec (decodeHc w) s := by rw [fetch_command hu hc]
  · rw [exec_uIdle_command hu hc, commandTaken_load hop, loadTaken_eq]
    simp [hcPayload, hu]
  · rw [exec_uIdle_command hu hc, commandTaken_poll hop, show hcCancel w = true from hcancel, pollTaken_cancel]
    simp [hu]
  · rw [exec_uIdle_command hu hc, commandTaken_poll hop, show hcCancel w = false from hcancel, pollTaken_select,
      hcSelect]

/-! ## The presence check and its report (R153, R157) -/

-- The three branches of the dispatch, each as a record update.

theorem dispatchPoll_absent {r : TsWord} (hp : presence r = false) (s : State) :
    dispatchPoll r s = { s with upc := .pNodev } :=
  if_neg (by simp [hp])

theorem dispatchPoll_read {r : TsWord} {s : State} (hp : presence r = true) (hsel : s.sel = false) :
    dispatchPoll r s = { s with st := .reading, upc := .rCmd } :=
  (if_pos hp).trans (if_neg (by simp [hsel]))

theorem dispatchPoll_write {r : TsWord} {s : State} (hp : presence r = true) (hsel : s.sel = true) :
    dispatchPoll r s = { s with st := .writing, upc := .wProg } :=
  (if_pos hp).trans (if_pos hsel)

/-- `U_P_RST` answered: the exchange of a `RESET`, then the dispatch. -/
theorem exec_uPRst_answered {s : State} {r : Reply} {rest : List Reply} (hr : s.replies = r :: rest) :
    exec .uPRst s = .next (dispatchPoll r.rdata { s with
      replies := rest, owed := [], trace := s.trace ++ [.exchange 0x000#11 r.rdata] }) :=
  congrArg Host.Outcome.next (exchange_plain dispatchPoll rfl hr)

/-- Settles O18: by `exec_uPRst_answered`, with the branch of the dispatch. -/
theorem presenceCheckDispatches : Obligations.PresenceCheckDispatches := by
  intro s r rest hr
  rw [exec_uPRst_answered hr]
  exact ⟨fun hp => congrArg _ (dispatchPoll_absent hp _), fun hp hsel => congrArg _ (dispatchPoll_read hp hsel),
    fun hp hsel => congrArg _ (dispatchPoll_write hp hsel)⟩

/-- Settles O19: the report with zero data, then `complete_eq`. -/
theorem noDeviceReported : Obligations.NoDeviceReported := by
  intro s n ha
  rw [exec, execUPNodev, sendReport_succ _ _ ha, complete_eq]
  simp [rpWord, Report.code, Completion.code]

/-! ## A busy engine and the command channel (R151) -/

/-- A row that is the taking of a host command does nothing while the engine is busy. -/
theorem exec_command_busy {i : Instr} {w : HcWord} {k : State → State} {s : State}
    (hi : exec i s = .next (takeCommand w k s)) (hu : s.upc ≠ .idle) : exec i s = .next s := by
  rw [hi, takeCommand_busy w k hu]

theorem exec_uIdle_nil {s : State} (hc : s.cmds = []) : exec .uIdle s = .next s := by
  rw [exec, execUIdle, hc]

/-- Settles O14: each row takes its command through `takeCommand`, which is closed; `U_IDLE` may also find none
offered. -/
theorem busyEngineTakesNoCommand : Obligations.BusyEngineTakesNoCommand := by
  intro s select cancel payload hu
  refine ⟨exec_command_busy rfl hu, exec_command_busy rfl hu, exec_command_busy rfl hu, exec_command_busy rfl hu, ?_⟩
  cases hc : s.cmds with
  | nil => exact exec_uIdle_nil hc
  | cons w rest => exact exec_command_busy (exec_uIdle_offered hc) hu

/-- `f` neither reads nor writes the command channel. -/
def CommandBlind (f : State → State) : Prop :=
  ∀ (s : State) (offers : List HcWord), f { s with cmds := offers } = { f s with cmds := offers }

namespace CommandBlind

/-- What does not look at the offers leaves them as they are. -/
theorem cmds_eq {f : State → State} (hf : CommandBlind f) (s : State) : (f s).cmds = s.cmds := by
  calc (f s).cmds = (f { s with cmds := s.cmds }).cmds := rfl
    _ = s.cmds := by rw [hf]

theorem exchange (w : TrWord) {k : TsWord → State → State} (hk : ∀ r, CommandBlind (k r)) :
    CommandBlind (exchange w k) := by
  intro s offers
  rcases exchange_cases w k s with ⟨hr, h⟩ | ⟨r, rest, hr, h⟩ <;> rw [h]
  · exact exchange_nil w k hr
  · rw [exchange_cons w k (s := { s with cmds := offers }) hr, ← hk]

theorem takeBeat {k : Byte → State → State} (hk : ∀ d, CommandBlind (k d)) : CommandBlind (takeBeat k) := by
  intro s offers
  rcases takeBeat_cases k s with ⟨ho, h⟩ | ⟨d, rest, ho, h⟩ <;> rw [h]
  · exact takeBeat_nil k ho
  · rw [takeBeat_cons k (s := { s with cmds := offers }) ho, ← hk]

theorem sendReport (w : RpWord) {k : State → State} (hk : CommandBlind k) : CommandBlind (sendReport w k) := by
  intro s offers
  rcases sendReport_cases w k s with ⟨ha, h⟩ | ⟨n, ha, h⟩ <;> rw [h]
  · exact sendReport_zero w k ha
  · rw [sendReport_succ w k (s := { s with cmds := offers }) ha, ← hk]

theorem dispatchPoll (r : TsWord) : CommandBlind (dispatchPoll r) := by
  intro s offers
  rcases dispatchPoll_cases r s with ⟨hp, h⟩ | ⟨hp, hsel, h⟩ | ⟨hp, hsel, h⟩ <;> rw [h]
  · exact dispatchPoll_absent hp _
  · exact dispatchPoll_read hp hsel
  · exact dispatchPoll_write hp hsel

theorem storeBeat (d : Byte) : CommandBlind (storeBeat d) := by
  intro s offers
  simp only [Machine.storeBeat]
  split <;> rfl

theorem nextBit : CommandBlind nextBit := by
  intro s offers
  rcases nextBit_cases s with ⟨hbit, h⟩ | ⟨hbit, hbyte, h⟩ | ⟨hbit, hbyte, h⟩ <;> rw [h]
  · exact nextBit_of_bit hbit
  · exact nextBit_of_byte hbit hbyte
  · exact nextBit_of_last hbit hbyte

end CommandBlind

/-- The micro-steps but `U_IDLE` do not look at the command channel. -/
theorem microStep_of_busy {u : MicroStep} (hu : u ≠ .idle) :
    ∃ f, CommandBlind f ∧ ∀ s : State, s.upc = u → microStep s = .next (f s) := by
  cases u with
  | idle => exact absurd rfl hu
  | pRst => exact ⟨_, .exchange _ .dispatchPoll, fun _ => microStep_eq_exec⟩
  | rData => exact ⟨_, .takeBeat .storeBeat, fun _ => microStep_eq_exec⟩
  | wBit => exact ⟨_, fun s => CommandBlind.exchange (bitRequest s) (fun _ => .nextBit) s, fun _ => microStep_eq_exec⟩
  | rRpt =>
    exact ⟨_, fun s => CommandBlind.sendReport (identifierReport s.idBuf) (fun _ _ => rfl) s, fun _ => microStep_eq_exec⟩
  | pNodev | wProg | wDone => exact ⟨_, .sendReport _ fun _ _ => rfl, fun _ => microStep_eq_exec⟩
  | _ => exact ⟨_, .exchange _ fun _ _ _ => rfl, fun _ => microStep_eq_exec⟩

/-- Settles O16: by `microStep_of_busy` the step is a map that neither reads nor writes the offers. -/
theorem busyEngineIgnoresTheCommandChannel : Obligations.BusyEngineIgnoresTheCommandChannel := by
  intro s t offers hu hrst ht
  obtain ⟨f, hblind, hstep⟩ := microStep_of_busy hu
  rw [step_released hrst, hstep s.tick rfl] at ht
  cases ht
  refine ⟨hblind.cmds_eq s.tick, ?_⟩
  calc step { s with cmds := offers } = microStep { s.tick with cmds := offers } :=
        step_released (s := { s with cmds := offers }) hrst
    _ = .next (f { s.tick with cmds := offers }) := hstep _ rfl
    _ = .next { f s.tick with cmds := offers } := by rw [hblind]

/-! ## A `POLL` that finds no device (R157, R162) -/

/-- With `rst` released for good a step is the row at `UPC`. -/
theorem step_row {s : State} {u : MicroStep} (hrst : s.rst = []) (hu : s.upc = u) : step s = exec (instrAt u) s := by
  rw [step_eq_microStep hrst, microStep_eq_exec hu]

/-- Settles O41: the `POLL`, the presence check that finds nothing, and the report. -/
theorem pollWithoutDeviceWhole : Obligations.PollWithoutDeviceWhole := by
  intro s w cs p rest n hu hrst hc hop hcancel hr hp ha
  refine Eq.trans (core_run_succ (step_poll hu hrst hc hop hcancel)) ?_
  obtain ⟨habsent, -⟩ := presenceCheckDispatches
    { s with sel := hcSelect w, upc := .pRst, cmds := cs, trace := s.trace ++ [.command w] } p rest hr
  refine Eq.trans (core_run_succ (Eq.trans (step_row (u := .pRst) hrst rfl) (habsent hp))) ?_
  refine Eq.trans (core_run_succ (Eq.trans (step_row (u := .pNodev) hrst rfl) (noDeviceReported _ n ha))) ?_
  simp [Host.Core.run, hcSelect]

/-! ## The one completion of a command (R160) -/

theorem plainExchanges_stay_busy : ∀ p ∈ plainExchanges, p.2.2 ≠ .idle := by
  decide

/-- The messages of one step: none, one that ends no command, or one and the completion of the command. -/
theorem stepTo_messages {s t : State} (h : StepTo s t) :
    t = s ∨
    (∃ e, t.trace = s.trace ++ [e] ∧ t.upc ≠ .idle ∧ ∀ c, e ≠ .completion c) ∨
    (∃ e c, t.trace = s.trace ++ [e, .completion c] ∧ t.upc = .idle ∧ t.st = .idle ∧ c = t.res.code ∧
      ∀ c', e ≠ .completion c') := by
  cases h with
  | wait => exact .inl rfl
  | plainExchange u w v r rest hmem =>
    exact .inr (.inl ⟨_, rfl, plainExchanges_stay_busy _ hmem, nofun⟩)
  | beat d rest hu => exact .inr (.inl ⟨_, rfl, by simp [hu], nofun⟩)
  | load | cancel | reportNoDevice | reportIdentifier | reportComplete =>
    exact .inr (.inr ⟨_, _, rfl, rfl, rfl, rfl, nofun⟩)
  | _ => exact .inr (.inl ⟨_, rfl, nofun, nofun⟩)

/-- Settles O56: with `rst` released a step is a micro-step, and `stepTo_messages` says what it exchanges. -/
theorem completionExactlyWhenReady : Obligations.CompletionExactlyWhenReady :=
  fun s _ hrst ht => stepTo_messages (s := s.tick) (stepTo_of_released hrst ht)

end Sys2Proof.Proofs
end

section
/-! The exceptional conditions (60_exceptions.md R180, R185, R195): the order of the checks at a `POLL`, the wait for an
answer that does not come, and a next state for every row in every state. -/

namespace Sys2Proof.Proofs

open Sys2Proof.Machine Sys2Proof.Laws

/-! ## The order of the checks at a `POLL` (R185) -/

/-- A run of one step comes to where that step comes. -/
theorem core_run_one {s t : State} (h : step s = .next t) : Sys2Proof.core.run 1 s = .next t := core_run_succ h

/-- A cancelled `POLL` is over in one step, with nothing asked of the Bus Transport (R154). -/
theorem step_poll_cancelled {s : State} {w : HcWord} {cs : List HcWord} (hu : s.upc = .idle) (hrst : s.rst = [])
    (hc : s.cmds = w :: cs) (hop : hcOp w = false) (hcancel : hcCancel w = true) :
    step s = .next { s with
      res := .userCancel, st := .idle, cmds := cs, trace := s.trace ++ [.command w, .completion 4#3] } := by
  obtain ⟨-, -, hcancelled, -⟩ := idleTakesTheOfferedCommand s w cs hu hc
  exact (step_row hrst hu).trans (hcancelled hop hcancel)

/-- The presence check answered, as a step: the exchange of a `RESET`, then the dispatch (R153). -/
theorem step_presenceCheck {s : State} {p : Reply} {rest : List Reply} (hu : s.upc = .pRst) (hrst : s.rst = [])
    (hr : s.replies = p :: rest) :
    step s = .next (dispatchPoll p.rdata { s with
      replies := rest, owed := [], trace := s.trace ++ [.exchange 0x000#11 p.rdata] }) :=
  (step_row hrst hu).trans (exec_uPRst_answered hr)

/-- A `POLL` that is not cancelled asks for presence in its second step and dispatches on the answer, whatever `select`
it carries (R152, R153). -/
theorem run_poll_answered {s : State} {w : HcWord} {cs : List HcWord} {p : Reply} {rest : List Reply}
    (hu : s.upc = .idle) (hrst : s.rst = []) (hc : s.cmds = w :: cs) (hr : s.replies = p :: rest)
    (hop : hcOp w = false) (hcancel : hcCancel w = false) :
    Sys2Proof.core.run 2 s = .next (dispatchPoll p.rdata { s with
      sel := hcSelect w, upc := .pRst, cmds := cs, replies := rest, owed := []
      trace := s.trace ++ [.command w, .exchange 0x000#11 p.rdata] }) := by
  refine Eq.trans (core_run_succ (step_poll hu hrst hc hop hcancel)) ?_
  refine Eq.trans (core_run_one (step_presenceCheck rfl hrst hr)) ?_
  rw [List.append_assoc, List.singleton_append]

/-- Settles O17: a cancelled `POLL` by `step_poll_cancelled`; the others by `run_poll_answered`, with the branch of the
dispatch, which looks at presence before it looks at `select`. -/
theorem pollPriority : Obligations.PollPriority := by
  intro s w cs p rest hu hst hrst hc hr hop
  have hpoll (hcancel : w.getLsbD 2 = false) := run_poll_answered hu hrst hc hr hop hcancel
  refine ⟨fun hcancel => ?_, fun hcancel hp => ?_, fun hcancel hp hsel => ?_, fun hcancel hp hsel => ?_⟩
  · rw [core_run_one (step_poll_cancelled hu hrst hc hop hcancel), ← hst]
  · rw [hpoll hcancel, dispatchPoll_absent hp, hcSelect]
  · rw [hpoll hcancel, dispatchPoll_read hp hsel, hcSelect, hsel]
  · rw [hpoll hcancel, dispatchPoll_write hp hsel, hcSelect, hsel]

/-! ## No answer (R195, R202) -/

/-- Settles O35: with `rst` released for good the step is the micro-step at `UPC`, which is the exchange, the beat, the
report or the command it stands for, and each of these leaves the state as it is when nothing is offered. -/
theorem unansweredMessageStopsTheEngine : Obligations.UnansweredMessageStopsTheEngine := by
  intro s hrst
  refine ⟨fun ⟨w, hw⟩ hr => ?_, fun hb ho => ?_, fun ⟨w, hw⟩ ha => ?_, fun hu hc => ?_⟩
  · obtain ⟨-, k, hstep, -⟩ := microStep_of_treqWord hw
    rw [step_eq_microStep hrst, hstep, exchange_nil w k hr]
  · rw [step_eq_microStep hrst, microStep_of_wantsBeat hb, takeBeat_nil storeBeat ho]
  · obtain ⟨k, hstep, -⟩ := microStep_of_rptWord hw
    rw [step_eq_microStep hrst, hstep, sendReport_zero w k ha]
  · exact (step_row hrst hu).trans (exec_uIdle_nil hc)

/-! ## Every row has a next state (R180) -/

/-- A routine has a next state, because every micro-step has one. -/
theorem exists_runRoutine (n : Nat) (s : State) : ∃ t, runRoutine n s = .next t := by
  induction n generalizing s with
  | zero => exact ⟨s, rfl⟩
  | succ n ih =>
    by_cases hu : s.upc = .idle
    · exact ⟨s, runRoutine_idle hu⟩
    · obtain ⟨t, hm⟩ := exists_microStep s
      rw [runRoutine_succ hu hm]
      exact ih t

/-- Only the routines and `U_IDLE` are more than one operation of the state, and an operation has a next state. -/
theorem exists_exec (i : Instr) (s : State) : ∃ t, exec i s = .next t := by
  cases i with
  | readId | writeId => exact exists_runRoutine _ _
  | uIdle =>
    cases hc : s.cmds with
    | nil => exact ⟨s, exec_uIdle_nil hc⟩
    | cons w rest => exact ⟨_, exec_uIdle_offered hc⟩
  | _ => exact ⟨_, rfl⟩

/-- Settles O44: `exists_exec`, and a step is a reset or the fetched instruction. -/
theorem noInstructionStops : Obligations.NoInstructionStops := by
  refine ⟨exists_exec, fun s => ?_⟩
  unfold step
  split
  · exact ⟨_, rfl⟩
  · exact exists_exec _ _

end Sys2Proof.Proofs
end

section
/-! Reset (70_reset_and_hazards.md R200 to R202): what a step does while `rst` is asserted, and what the engine does
after it. -/

namespace Sys2Proof.Proofs

open Sys2Proof.Machine Sys2Proof.Laws

/-- While `rst` is asserted a step is the reset, whatever micro-step `UPC` names (R200). -/
theorem step_of_rst_asserted {s : State} (h : s.rstNow = true) : step s = .next (resetEngine s.tick) := by
  rw [step, if_pos h]

/-- `rstNow` is the first of the levels of `rst`. -/
theorem rstNow_cons {s : State} {level : Bool} {levels : List Bool} (h : s.rst = level :: levels) :
    s.rstNow = level := by
  rw [State.rstNow, h]

/-- A reset engine is ready (R200). -/
@[simp] theorem ready_resetEngine (s : State) : ready (resetEngine s) = true := rfl

/-- Settles O8: the step is `resetEngine` after one level of `rst` has passed, so each register has its reset value,
and each channel is what the laws of `resetEngine` and `tick` say. -/
theorem rstTakesEffectFromAnyState : Obligations.RstTakesEffectFromAnyState := by
  intro s levels hrst
  have hlevels : (resetEngine s.tick).rst = levels := by simp [hrst]
  refine ⟨resetEngine s.tick, step_of_rst_asserted (rstNow_cons hrst), ?_⟩
  exact ⟨resetEngine_idBuf _, resetEngine_st _, resetEngine_upc _, resetEngine_byte _, resetEngine_bit _,
    resetEngine_sel _, resetEngine_res _, ready_resetEngine _, hlevels, resetEngine_cmds _, resetEngine_replies _,
    resetEngine_owed _, resetEngine_acks _, resetEngine_trace _⟩

/-- Settles O9: `rst` is released and `UPC` is at `U_IDLE`, which waits when no command is offered (R202). -/
theorem resetStateWaits : Obligations.ResetStateWaits :=
  (step_row (s := State.reset) (u := .idle) rfl rfl).trans (exec_uIdle_nil rfl)

end Sys2Proof.Proofs
end

section
/-! The reference fixture (95_test_vectors.md section 4, P1 and P5; log entry 11). The engine on the bench is the engine
that is offered the fixture's answers beforehand (`benchFollows_of_run`), so a `POLL` on the bench is a `POLL` answered,
and what is left is what its requests do to the fixture. -/

namespace Sys2Proof.Proofs

open Sys2Proof.Machine Sys2Proof.Laws

/-! ## What is offered does not matter before it is taken -/

/-- `s` when the Bus Transport offers the answers `rs` and the UI collaborator takes `a` more reports. -/
def offered (rs : List Reply) (a : Nat) (s : State) : State := { s with replies := rs, acks := a }

/-- `f` neither reads nor writes what the Bus Transport and the UI collaborator offer. -/
def OfferBlind (f : State → State) : Prop :=
  ∀ (rs : List Reply) (a : Nat) (s : State), f (offered rs a s) = offered rs a (f s)

namespace OfferBlind

theorem dispatchPoll (r : TsWord) : OfferBlind (dispatchPoll r) := by
  intro rs a s
  simp only [Machine.dispatchPoll, apply_ite (offered rs a)]
  rfl

theorem nextBit : OfferBlind nextBit := by
  intro rs a s
  simp only [Machine.nextBit, apply_ite (offered rs a)]
  rfl

theorem storeBeat (d : Byte) : OfferBlind (storeBeat d) := by
  intro rs a s
  simp only [Machine.storeBeat, apply_ite (offered rs a)]
  rfl

theorem takeBeat {k : Byte → State → State} (hk : ∀ d, OfferBlind (k d)) : OfferBlind (takeBeat k) := by
  intro rs a s
  rcases takeBeat_cases k s with ⟨ho, h⟩ | ⟨d, rest, ho, h⟩ <;> rw [h]
  · exact takeBeat_nil k ho
  · rw [takeBeat_cons k (s := offered rs a s) ho, ← hk]
    rfl

theorem commandTaken (w : HcWord) : OfferBlind (commandTaken w) := by
  intro rs a s
  simp only [Machine.commandTaken, Machine.pollTaken, apply_ite (offered rs a)]
  rfl

theorem takeCommand (w : HcWord) {k : State → State} (hk : OfferBlind k) : OfferBlind (takeCommand w k) := by
  intro rs a s
  rcases takeCommand_cases w k s with ⟨hu, h⟩ | ⟨hu, h⟩ <;> rw [h]
  · exact takeCommand_busy w k hu
  · rw [takeCommand_ready w k (s := offered rs a s) hu, ← hk]
    rfl

end OfferBlind

theorem microStep_offered {s : State} {u : MicroStep} (hu : s.upc = u) (rs : List Reply) (a : Nat) :
    microStep (offered rs a s) = exec (instrAt u) (offered rs a s) := microStep_eq_exec hu

/-- A micro-step that makes a request, whatever is offered. -/
theorem microStep_request {s : State} {w : TrWord} (h : treqWord s = some w) :
    ∃ k, (∀ rs a, microStep (offered rs a s) = .next (exchange w k (offered rs a s))) ∧
      (∀ r, OfferBlind (k r)) ∧ ∀ r m, SameChannels m (k r m) := by
  cases hu : s.upc with
  | idle | pNodev | rData | rRpt | wProg | wDone => simp [treqWord, hu] at h
  | pRst =>
    simp only [treqWord, hu, Option.some.injEq] at h
    subst h
    exact ⟨_, microStep_offered hu, .dispatchPoll, .dispatchPoll⟩
  | wBit =>
    obtain rfl : bitRequest s = w := by simpa [treqWord, hu, bitRequest] using h
    exact ⟨_, microStep_offered hu, fun _ => .nextBit, fun _ => .nextBit⟩
  | rCmd | rReq | wRst1 | wSkip | wSettle | wEnter | wRst2 | wCmd | wBdly | wRst3 | wExit | wRst4 =>
    simp only [treqWord, hu, Option.some.injEq] at h
    subst h
    exact ⟨_, microStep_offered hu, fun _ _ _ _ => rfl, fun _ _ => .registers ..⟩

/-- A micro-step that makes a report, whatever is offered. -/
theorem microStep_report {s : State} {w : RpWord} (h : rptWord s = some w) :
    ∃ k, (∀ rs a, microStep (offered rs a s) = .next (sendReport w k (offered rs a s))) ∧ OfferBlind k := by
  cases hu : s.upc with
  | pNodev | rRpt | wProg | wDone =>
    simp only [rptWord, hu, Option.some.injEq] at h
    subst h
    exact ⟨_, microStep_offered hu, fun _ _ _ => rfl⟩
  | _ => simp [rptWord, hu] at h

/-- A micro-step that makes neither does not look at the offers. -/
theorem microStep_quiet {s : State} (hreq : treqWord s = none) (hrpt : rptWord s = none) :
    ∃ f, (∀ rs a, microStep (offered rs a s) = .next (f (offered rs a s))) ∧ OfferBlind f := by
  cases hu : s.upc with
  | idle =>
    cases hc : s.cmds with
    | nil => exact ⟨id, fun rs a => (microStep_offered hu rs a).trans (exec_uIdle_nil hc), fun _ _ _ => rfl⟩
    | cons w rest =>
      exact ⟨_, fun rs a => (microStep_offered hu rs a).trans (exec_uIdle_offered hc),
        .takeCommand w (.commandTaken w)⟩
  | rData => exact ⟨_, microStep_offered hu, .takeBeat .storeBeat⟩
  | pNodev | rRpt | wProg | wDone => simp [rptWord, hu] at hrpt
  | _ => simp [treqWord, hu] at hreq

/-! ## The requests among the messages of a step -/

theorem plainExchanges_treqWord : ∀ p ∈ plainExchanges, ∀ s : State, s.upc = p.1 → treqWord s = some p.2.1 := by
  intro p hp s hu
  unfold treqWord
  rw [hu]
  fin_cases hp <;> rfl

/-- Only a micro-step that makes a request adds one to the messages. -/
theorem stepTo_adds_no_request {s t : State} (h : StepTo s t) (hreq : treqWord s = none) :
    ∃ es, t.trace = s.trace ++ es ∧ requestWords es = [] := by
  cases h with
  | wait => exact ⟨[], (List.append_nil _).symm, rfl⟩
  | noDevice _ _ hu | dispatchRead _ _ hu | dispatchWrite _ _ hu | readRequest _ _ hu | writeCommand _ _ hu
  | bit _ _ hu | lastBitOfByte _ _ hu | lastBit _ _ hu => simp [treqWord, hu] at hreq
  | plainExchange _ _ _ _ _ hmem hu => simp [plainExchanges_treqWord _ hmem s hu] at hreq
  | _ => exact ⟨_, rfl, rfl⟩

/-! ## The bench is the engine with the fixture's answers offered beforehand -/

/-- The fixture after the requests `ws`. -/
def fixtureAfter (ws : List TrWord) (d : Device) : Device := ws.foldl (fun d w => d.act w) d

/-- The fixture's answers to the requests `ws`. -/
def fixtureAnswers : List TrWord → Device → List Reply
  | [], _ => []
  | w :: ws, d => d.answer w :: fixtureAnswers ws (d.act w)

theorem fixtureAfter_append (ws ws' : List TrWord) (d : Device) :
    fixtureAfter (ws ++ ws') d = fixtureAfter ws' (fixtureAfter ws d) := List.foldl_append

@[simp] theorem length_fixtureAnswers (ws : List TrWord) (d : Device) : (fixtureAnswers ws d).length = ws.length := by
  induction ws generalizing d with
  | nil => rfl
  | cons w ws ih => simp [fixtureAnswers, ih]

/-- Where the engine goes from `s` to `t` when the fixture's answers to its requests are offered beforehand, the bench
goes in `n` steps when nothing is, and the fixture has met the same requests. -/
def BenchFollows (n : Nat) (s t : State) : Prop :=
  ∃ es, t.trace = s.trace ++ es ∧ ∀ (d : Device) (ws : List TrWord) (a : Nat),
    s.replies = fixtureAnswers (requestWords es ++ ws) d →
    t.replies = fixtureAnswers ws (fixtureAfter (requestWords es) d) ∧
      Bench.run n ⟨offered [] a s, d⟩ = .next ⟨offered [] a t, fixtureAfter (requestWords es) d⟩

theorem BenchFollows.refl (s : State) : BenchFollows 0 s s :=
  ⟨[], (List.append_nil _).symm, fun _ _ _ hr => ⟨hr, rfl⟩⟩

theorem bench_run_add {m n : Nat} {b c : Bench} (h : Bench.run m b = .next c) :
    Bench.run (m + n) b = Bench.run n c := by
  induction m generalizing b with
  | zero => cases h; rw [Nat.zero_add]
  | succ m ih =>
    rw [Nat.succ_add, Bench.run]
    rw [Bench.run] at h
    split at h
    next => exact ih h
    all_goals cases h

theorem BenchFollows.trans {m n : Nat} {s t u : State} (h : BenchFollows m s t) (h' : BenchFollows n t u) :
    BenchFollows (m + n) s u := by
  obtain ⟨es, htrace, hrun⟩ := h
  obtain ⟨es', htrace', hrun'⟩ := h'
  refine ⟨es ++ es', by rw [htrace', htrace, List.append_assoc], fun d ws a hr => ?_⟩
  rw [requestWords_append, List.append_assoc] at hr
  obtain ⟨hrt, hst⟩ := hrun d _ a hr
  obtain ⟨hru, htu⟩ := hrun' _ ws a hrt
  rw [requestWords_append, fixtureAfter_append]
  exact ⟨hru, (bench_run_add hst).trans htu⟩

-- What the bench feeds the engine: an answer, a report taken, or nothing.

theorem feed_request {b : Bench} {w : TrWord} (hw : treqWord b.engine = some w) (hr : b.engine.replies = []) :
    b.feed = ⟨{ b.engine with replies := [b.device.answer w] }, b.device.act w⟩ := by
  simp only [Bench.feed, hw, hr]

theorem feed_report {b : Bench} {w : RpWord} (hreq : treqWord b.engine = none) (hw : rptWord b.engine = some w) :
    b.feed = { b with engine := { b.engine with acks := b.engine.acks + 1 } } := by
  simp only [Bench.feed, hreq, hw]

theorem feed_quiet {b : Bench} (hreq : treqWord b.engine = none) (hrpt : rptWord b.engine = none) : b.feed = b := by
  simp only [Bench.feed, hreq, hrpt]

/-- One step of the bench, once what the engine offers is answered. -/
theorem bench_run_one {b c : Bench} {t : State} (hrst : b.engine.rst = []) (hfeed : b.feed = c)
    (hc : c.engine.rst = []) (h : microStep c.engine = .next t) :
    Bench.run 1 b = .next { c with engine := t } := by
  have hrstNow : b.engine.rstNow = false := by simp [State.rstNow, hrst]
  simp [Bench.run, Bench.step, hrstNow, hfeed, step_eq_microStep hc, h]

theorem benchFollows_request {s t : State} {w : TrWord} {r : Reply} {rest : List Reply} (hrst : s.rst = [])
    (hw : treqWord s = some w) (hr : s.replies = r :: rest) (h : microStep s = .next t) : BenchFollows 1 s t := by
  obtain ⟨k, hstep, hblind, hsame⟩ := microStep_request hw
  obtain rfl : k r.rdata _ = t := by
    have hs := hstep s.replies s.acks
    rw [exchange_cons (s := offered s.replies s.acks s) w k hr] at hs
    exact Host.Outcome.next.inj (hs.symm.trans h)
  refine ⟨[.exchange w r.rdata], (hsame ..).trace, fun d ws a hans => ?_⟩
  obtain ⟨rfl, rfl⟩ : r = d.answer w ∧ rest = fixtureAnswers ws (d.act w) := List.cons.inj (hr.symm.trans hans)
  refine ⟨(hsame ..).replies, ?_⟩
  have hfeed : Bench.feed ⟨offered [] a s, d⟩ = ⟨offered [d.answer w] a s, d.act w⟩ := feed_request hw rfl
  refine bench_run_one hrst hfeed hrst ((hstep ..).trans ?_)
  rw [exchange_cons w k rfl, ← hblind]
  rfl

/-- A step that makes no request leaves the fixture and its answers alone. -/
theorem benchFollows_of_no_request {s t : State} (hreq : treqWord s = none) (h : microStep s = .next t)
    (hr : t.replies = s.replies)
    (hrun : ∀ a d, Bench.run 1 ⟨offered [] a s, d⟩ = .next ⟨offered [] a t, d⟩) : BenchFollows 1 s t := by
  obtain ⟨es, htrace, hes⟩ := stepTo_adds_no_request (stepTo_of_microStep h) hreq
  refine ⟨es, htrace, fun d ws a hans => ?_⟩
  rw [hes] at hans ⊢
  exact ⟨hr.trans hans, hrun a d⟩

theorem treqWord_of_rptWord {s : State} {w : RpWord} (h : rptWord s = some w) : treqWord s = none := by
  cases hu : s.upc with
  | pNodev | rRpt | wProg | wDone => simp [treqWord, hu]
  | _ => simp [rptWord, hu] at h

theorem benchFollows_report {s t : State} {w : RpWord} {n : Nat} (hrst : s.rst = []) (hw : rptWord s = some w)
    (ha : s.acks = n + 1) (h : microStep s = .next t) : BenchFollows 1 s t := by
  obtain ⟨k, hstep, hblind⟩ := microStep_report hw
  have hreq := treqWord_of_rptWord hw
  have hreport (rs : List Reply) (a : Nat) : microStep (offered rs (a + 1) s) =
      .next (offered rs a (k { s with trace := s.trace ++ [.report w] })) := by
    rw [hstep, sendReport_succ w k rfl, ← hblind]
    rfl
  obtain rfl : offered s.replies n (k { s with trace := s.trace ++ [.report w] }) = t := by
    have hs := hreport s.replies n
    rw [← ha] at hs
    exact Host.Outcome.next.inj (hs.symm.trans h)
  refine benchFollows_of_no_request hreq h rfl fun a d => ?_
  exact bench_run_one hrst (feed_report hreq hw) hrst (hreport [] a)

theorem benchFollows_quiet {s t : State} (hrst : s.rst = []) (hreq : treqWord s = none) (hrpt : rptWord s = none)
    (h : microStep s = .next t) : BenchFollows 1 s t := by
  obtain ⟨f, hstep, hblind⟩ := microStep_quiet hreq hrpt
  obtain rfl : f s = t := Host.Outcome.next.inj ((hstep s.replies s.acks).symm.trans h)
  have hf (rs : List Reply) (a : Nat) : microStep (offered rs a s) = .next (offered rs a (f s)) := by
    rw [hstep, hblind]
  refine benchFollows_of_no_request hreq h ?_ fun a d => ?_
  · have hs : f s = offered s.replies s.acks (f s) := hblind s.replies s.acks s
    rw [hs]
    rfl
  · exact bench_run_one hrst (feed_quiet hreq hrpt) hrst (hf [] a)

/-- The bench follows every step of the engine but a wait for an answer or for a report to be taken. -/
theorem benchFollows_or_waits {s t : State} (hrst : s.rst = []) (h : microStep s = .next t) :
    BenchFollows 1 s t ∨ step s = .next s ∧ s.upc ≠ .idle := by
  obtain ⟨hnoAnswer, -, hnoAck, -⟩ := unansweredMessageStopsTheEngine s hrst
  cases hreq : treqWord s with
  | some w =>
    have hbusy : s.upc ≠ .idle := fun hu => by simp [treqWord, hu] at hreq
    cases hr : s.replies with
    | nil => exact .inr ⟨hnoAnswer ⟨w, hreq⟩ hr, hbusy⟩
    | cons r rest => exact .inl (benchFollows_request hrst hreq hr h)
  | none =>
    cases hrpt : rptWord s with
    | none => exact .inl (benchFollows_quiet hrst hreq hrpt h)
    | some w =>
      have hbusy : s.upc ≠ .idle := fun hu => by simp [rptWord, hu] at hrpt
      cases ha : s.acks with
      | zero => exact .inr ⟨hnoAck ⟨w, hrpt⟩ ha, hbusy⟩
      | succ n => exact .inl (benchFollows_report hrst hrpt ha h)

/-- A step that changes nothing is all that a run does. -/
theorem core_run_fixed {s : State} (h : step s = .next s) (n : Nat) : Sys2Proof.core.run n s = .next s := by
  induction n with
  | zero => rfl
  | succ n ih => exact (core_run_succ h).trans ih

/-- A run of the engine to the end of a command is followed by the bench. -/
theorem benchFollows_of_run {n : Nat} {s t : State} (hrst : s.rst = []) (ht : t.upc = .idle)
    (h : Sys2Proof.core.run n s = .next t) : BenchFollows n s t := by
  induction n generalizing s with
  | zero => cases h; exact .refl _
  | succ n ih =>
    obtain ⟨u, hm⟩ := exists_microStep s
    rcases benchFollows_or_waits hrst hm with hfollow | ⟨hwait, hbusy⟩
    · rw [core_run_succ ((step_eq_microStep hrst).trans hm)] at h
      rw [Nat.add_comm]
      exact hfollow.trans (ih ((stepTo_rst (stepTo_of_microStep hm)).trans hrst) h)
    · rw [core_run_fixed hwait] at h
      cases h
      exact absurd ht hbusy

/-- A command answered by the fixture, as the bench runs it: `es` are its messages, `ws` the requests among them. -/
theorem bench_run_of_run {n : Nat} {s t : State} {d : Device} {es : List Event} {ws : List TrWord} {m : Nat}
    (h : Sys2Proof.core.run n (offered (fixtureAnswers ws d) m s) = .next t) (hrst : s.rst = [])
    (hr : s.replies = []) (ht : t.upc = .idle) (htrace : t.trace = s.trace ++ es) (hws : requestWords es = ws) :
    Bench.run n ⟨s, d⟩ = .next ⟨offered [] s.acks t, fixtureAfter ws d⟩ := by
  subst hws
  obtain ⟨es', htrace', hrun⟩ :=
    benchFollows_of_run (s := offered (fixtureAnswers (requestWords es) d) m s) hrst ht h
  obtain rfl : es' = es := List.append_cancel_left (htrace'.symm.trans htrace)
  obtain ⟨-, hbench⟩ := hrun d [] s.acks (congrArg (fixtureAnswers · d) (List.append_nil _).symm)
  have hs : offered [] s.acks (offered (fixtureAnswers (requestWords es') d) m s) = s := by rw [← hr]; rfl
  rwa [hs] at hbench

end Sys2Proof.Proofs
end

section
/-! Properties P1 and P5 on the reference fixture (95_test_vectors.md section 4; log entry 11): what the requests of a
Read and of a Write do to it. -/

namespace Sys2Proof.Proofs

open Sys2Proof.Machine Sys2Proof.Laws

/-! ## What a request does to the fixture -/

section
variable (d : Device)

@[simp] theorem act_reset : d.act 0x000#11 = d.onReset := rfl
@[simp] theorem act_skipRom : d.act 0x100#11 = d := rfl
@[simp] theorem act_settle : d.act 0x514#11 = d := rfl
@[simp] theorem act_bitDelay : d.act 0x519#11 = d := rfl
@[simp] theorem act_readRom : d.act 0x233#11 = d.onWriteByte 0x33#8 := rfl
@[simp] theorem act_writeMode : d.act 0x2D1#11 = d.onWriteByte 0xD1#8 := rfl
@[simp] theorem act_writeRom : d.act 0x2D5#11 = d.onWriteByte 0xD5#8 := rfl
@[simp] theorem act_readBytes : d.act 0x408#11 = d.onReadBytes := rfl

end

/-! ## A Read (P1) -/

/-- The requests of a `POLL.R` that finds a device (R126, R127). -/
def pollReadWords : List TrWord := [0x000#11, 0x233#11, 0x408#11]

theorem requestWords_beats (ds : List Byte) : requestWords (ds.map .beat) = [] := by
  induction ds with
  | nil => rfl
  | cons d ds ih => exact ih

theorem requestWords_pollRead (w : HcWord) (p r0 r1 : TsWord) (ds : IdBuf) :
    requestWords ([.command w, .exchange 0x000#11 p] ++ readIdTrace r0 r1 ds) = pollReadWords := by
  simp [readIdTrace, requestWords_append, requestWords_beats, requestWords, pollReadWords]

theorem fixtureAnswers_pollRead {d : Device} (h : d.present = true) :
    fixtureAnswers pollReadWords d = [⟨1#8, []⟩, ⟨0#8, []⟩, ⟨0#8, d.rom.toList⟩] := by
  simp [fixtureAnswers, pollReadWords, Device.onReset, Device.onWriteByte, Device.answer, Device.beats, trReq, h]

theorem fixtureAfter_pollRead {d : Device} (h : d.present = true) (hp : d.pend = false) :
    fixtureAfter pollReadWords d = { d with mode := .ignore, cnt := 0 } := by
  simp [fixtureAfter, pollReadWords, Device.onReset, Device.onWriteByte, Device.onReadBytes, h, hp]

/-- Settles O59: the bench runs the `POLL.R` that is offered the fixture's three answers, the last of them its ROM. -/
theorem fixtureReadDeliversTheRom : Obligations.FixtureReadDeliversTheRom := by
  intro s d w cs hu hrst hr hc hop hcancel hsel hpresent hpend
  have hbeats : d.rom.toList = d.rom.toList ++ [] := (List.append_nil _).symm
  have hrun := pollReadWhole (offered (fixtureAnswers pollReadWords d) 1 s) w cs _ _ _ d.rom [] [] 0 hu hrst hc hop
    hcancel hsel (fixtureAnswers_pollRead hpresent) hbeats rfl rfl
  have hbench := bench_run_of_run hrun hrst hr rfl (List.append_assoc ..) (requestWords_pollRead ..)
  rw [fixtureAfter_pollRead hpresent hpend] at hbench
  exact ⟨_, hbench, rfl, rfl, rfl, rfl, hpend⟩

/-! ## A Write (P5) -/

/-- Bit `n` of an identifier, counted from bit 0 of byte 0 (R147). -/
def idBit (v : IdBuf) (n : Nat) : Bool := (idGet v (BitVec.ofNat 3 (n / 8))).getLsbD (n % 8)

theorem idBuf_ext_idBit {v w : IdBuf} (h : ∀ n < 64, idBit v n = idBit w n) : v = w := by
  refine idBuf_ext fun k => BitVec.eq_of_getLsbD_eq fun j hj => ?_
  have hk : k.toNat < 8 := idIndex_lt k
  have hdiv : (8 * k.toNat + j) / 8 = k.toNat := by omega
  have hmod : (8 * k.toNat + j) % 8 = j := by omega
  simpa [idBit, hdiv, hmod] using h (8 * k.toNat + j) (by omega)

theorem getLsbD_putBit (x : Byte) {i j : Nat} (hi : i < 8) (b : Bool) :
    (putBit x j b).getLsbD i = if i = j then b else x.getLsbD i := by
  have hone : (1#8 <<< j).getLsbD i = decide (i = j) := by
    rw [← BitVec.twoPow_eq, BitVec.getLsbD_twoPow, ← Bool.decide_and]
    exact decide_eq_decide.2 (by omega)
  unfold putBit
  cases b with
  | true =>
    rw [if_pos rfl, BitVec.getLsbD_or, hone]
    split_ifs with h <;> simp [h]
  | false =>
    rw [if_neg Bool.false_ne_true, BitVec.getLsbD_and, BitVec.getLsbD_not, hone]
    split_ifs with h <;> simp [h, hi]

/-- Bit `n` of an identifier with bit `m` replaced. -/
theorem idBit_idSet_putBit (v : IdBuf) {m n : Nat} (hm : m < 64) (hn : n < 64) (b : Bool) :
    idBit (idSet v (BitVec.ofNat 3 (m / 8)) (putBit (idGet v (BitVec.ofNat 3 (m / 8))) (m % 8) b)) n =
      if n = m then b else idBit v n := by
  by_cases hbyte : n / 8 = m / 8
  · have hbit : n % 8 = m % 8 ↔ n = m := by omega
    simp only [idBit, hbyte, idGet_idSet_same, getLsbD_putBit _ (Nat.mod_lt n (by decide)), hbit]
  · have hne : n ≠ m := fun h => hbyte (congrArg (· / 8) h)
    have hindex : BitVec.ofNat 3 (n / 8) ≠ BitVec.ofNat 3 (m / 8) := by bv_omega
    rw [idBit, idGet_idSet_other _ _ hindex, if_neg hne, idBit]

/-- The complement is taken twice, by the marshaler (R141) and by the fixture's cell. -/
theorem act_bitWord (v : IdBuf) (n : Nat) (d : Device) : d.act (bitWord v n) = d.onWriteBit (!idBit v n) := by
  rw [bitWord, ← idBit]
  cases idBit v n <;> rfl

/-- The fixture has taken the first `n` payload bits of `v`. -/
structure Cloning (v : IdBuf) (n : Nat) (d : Device) : Prop where
  present : d.present = true
  we : d.we = true
  pend : d.pend = false
  mode : d.mode = .writeIn
  cnt : d.cnt = n
  bits : ∀ i < n, idBit d.rom i = idBit v i

theorem Cloning.succ {v : IdBuf} {n : Nat} {d : Device} (h : Cloning v n d) (hn : n < 64) :
    Cloning v (n + 1) (fixtureAfter [0x519#11, bitWord v n] d) := by
  obtain ⟨hpresent, hwe, hpend, hmode, rfl, hbits⟩ := h
  have hafter : fixtureAfter [0x519#11, bitWord v d.cnt] d = { d with
      rom := idSet d.rom (BitVec.ofNat 3 (d.cnt / 8))
        (putBit (idGet d.rom (BitVec.ofNat 3 (d.cnt / 8))) (d.cnt % 8) (idBit v d.cnt))
      cnt := d.cnt + 1 } := by
    simp [fixtureAfter, act_bitWord, Device.onWriteBit, hpresent, hmode, hn]
  rw [hafter]
  refine ⟨hpresent, hwe, hpend, hmode, rfl, fun i hi => ?_⟩
  rw [idBit_idSet_putBit _ hn (by omega)]
  split_ifs with heq
  · rw [heq]
  · exact hbits i (by omega)

/-- The bit loop (R140). -/
theorem Cloning.bits_sent {v : IdBuf} {d : Device} (h : Cloning v 0 d) {n : Nat} (hn : n ≤ 64) :
    Cloning v n (fixtureAfter ((List.range n).flatMap fun i => [0x519#11, bitWord v i]) d) := by
  induction n with
  | zero => exact h
  | succ n ih =>
    rw [List.range_succ, List.flatMap_append, fixtureAfter_append, List.flatMap_singleton]
    exact (ih (by omega)).succ (by omega)

/-- The poll's `RESET` and the requests up to the first payload bit: the fixture is write-enabled and takes bits. -/
theorem cloning_zero (v : IdBuf) {d : Device} (hpresent : d.present = true) (hpend : d.pend = false)
    (hwe : d.we = false) :
    Cloning v 0 (fixtureAfter [0x000#11, 0x000#11, 0x100#11, 0x514#11, 0x2D1#11, 0x000#11, 0x2D5#11] d) := by
  have hafter : fixtureAfter [0x000#11, 0x000#11, 0x100#11, 0x514#11, 0x2D1#11, 0x000#11, 0x2D5#11] d =
      { d with we := true, mode := .writeIn, cnt := 0 } := by
    simp [fixtureAfter, Device.onReset, Device.onWriteByte, hpresent, hpend, hwe]
  rw [hafter]
  exact ⟨hpresent, rfl, hpend, rfl, rfl, nofun⟩

/-- The requests after the last payload bit: the fixture leaves write mode. -/
theorem Cloning.close {v : IdBuf} {n : Nat} {d : Device} (h : Cloning v n d) :
    fixtureAfter [0x000#11, 0x2D1#11, 0x000#11] d = { d with we := false, mode := .waitCmd, cnt := 0 } := by
  obtain ⟨hpresent, hwe, hpend, -⟩ := h
  simp [fixtureAfter, Device.onReset, Device.onWriteByte, hpresent, hpend, hwe]

/-- The fixture after a `POLL.W` holds the payload and is not write-enabled. -/
theorem fixtureAfter_pollWrite (v : IdBuf) {d : Device} (hpresent : d.present = true) (hpend : d.pend = false)
    (hwe : d.we = false) :
    (fixtureAfter (0x000#11 :: writeIdWords v) d).rom = v ∧
      (fixtureAfter (0x000#11 :: writeIdWords v) d).we = false ∧
      (fixtureAfter (0x000#11 :: writeIdWords v) d).pend = false := by
  have hsent := (cloning_zero v hpresent hpend hwe).bits_sent (Nat.le_refl 64)
  have hrom := idBuf_ext_idBit hsent.bits
  rw [← fixtureAfter_append] at hsent hrom
  rw [writeIdWords, ← List.cons_append, ← List.cons_append, fixtureAfter_append, hsent.close]
  exact ⟨hrom, rfl, hsent.pend⟩

theorem answer_reset {d : Device} (h : d.present = true) : d.answer 0x000#11 = ⟨1#8, []⟩ := by
  simp [Device.answer, trReq, h]

theorem requestWords_pollWrite (w : HcWord) (p : TsWord) (v : IdBuf) {rs : List TsWord} (h : rs.length = 137) :
    requestWords ([.command w, .exchange 0x000#11 p] ++ writeIdTrace v rs) = 0x000#11 :: writeIdWords v := by
  rw [requestWords_append, requestWords_writeIdTrace v h]
  rfl

/-- Settles O60: the bench runs the `POLL.W` that is offered the fixture's 138 answers, and its requests clone the
payload. -/
theorem fixtureWriteClonesTheIdentifier : Obligations.FixtureWriteClonesTheIdentifier := by
  intro s d w cs hu hrst hr hc hop hcancel hsel hpresent hpend hwe
  have hanswers : fixtureAnswers (0x000#11 :: writeIdWords s.idBuf) d =
      ⟨1#8, []⟩ :: (fixtureAnswers (writeIdWords s.idBuf) d.onReset ++ []) := by
    rw [fixtureAnswers, answer_reset hpresent, act_reset, List.append_nil]
  have hlen : (fixtureAnswers (writeIdWords s.idBuf) d.onReset).length = 137 := by simp
  have hrun := pollWriteWhole (offered (fixtureAnswers (0x000#11 :: writeIdWords s.idBuf) d) 2 s) w cs _ _ [] 0
    hu hrst hc hop hcancel hsel hanswers rfl hlen rfl
  have hbench := bench_run_of_run hrun hrst hr rfl (List.append_assoc ..)
    (requestWords_pollWrite w _ _ ((List.length_map _).trans hlen))
  obtain ⟨hrom, hwe', hpend'⟩ := fixtureAfter_pollWrite s.idBuf hpresent hpend hwe
  exact ⟨_, hbench, hrom, rfl, rfl, hwe', hpend'⟩

end Sys2Proof.Proofs
end
